-- ==== Sys2Proof/Word.lean ====
section
/-! DEFINITION. The plain values of the block: bits and bit strings, levels, pulses, the five command names and the
result names (spec/00_scope.md R7, spec/60_exceptions.md R161). -/

namespace Sys2Proof

/-- A bit: `false` is 0, `true` is 1 (R7). -/
abbrev Bit := Bool

/-- A bit string: a finite list of bits as the source writes it, index 0 the leftmost character (R7). No rule reads
one as a number. -/
abbrev BitString := List Bit

/-- A bit string written with the digits 0 and 1, leftmost first. -/
def bits (digits : List Nat) : BitString := digits.map (· == 1)

/-- The logical level of the transmit data output; `low` is the resting level (R7, R24). -/
inductive Level
  | low
  | high
  deriving DecidableEq, Repr

/-- A pulse: a level and a duration in ticks (R7). -/
structure Pulse where
  level : Level
  dur : Nat
  deriving DecidableEq, Repr

/-- The five commands (R61), which are also the index set of CMD_ROM (R43). -/
inductive Op
  | light
  | power
  | plus
  | minus
  | novy
  deriving DecidableEq, Repr

/-- The results the block reports: success and the four errors, a complete list (R160, R161). The unused codes 5, 6, 7
have no name (U22). -/
inductive ResultCode
  | ok
  | notFound
  | invalidLength
  | busy
  | hardwareFault
  deriving DecidableEq, Repr

end Sys2Proof
end

