-- ==== Sys2Proof/Syntax.lean ====
section
/-! DEFINITION. The instructions: one constructor for each row of spec/opcode_table.json (spec/30_encoding.md R71,
spec/44_command_dispatch.md R145 to R149). -/

namespace Sys2Proof

/-- A command with its one operand, the 4-bit field `dev` of the command word (R60, R63). -/
inductive Instr
  /-- LIGHT (R145). -/
  | light (dev : BitVec 4)
  /-- POWER (R146). -/
  | power (dev : BitVec 4)
  /-- PLUS, Fan-Speed-Plus (R147). -/
  | plus (dev : BitVec 4)
  /-- MINUS, Fan-Speed-Minus (R148). -/
  | minus (dev : BitVec 4)
  /-- NOVY, the pairing or special button (R149). -/
  | novy (dev : BitVec 4)
  deriving DecidableEq, Repr

/-- Which command an instruction is. -/
def Instr.op : Instr → Op
  | .light _ => .light
  | .power _ => .power
  | .plus _ => .plus
  | .minus _ => .minus
  | .novy _ => .novy

/-- The device index of an instruction (R62). -/
def Instr.dev : Instr → BitVec 4
  | .light d => d
  | .power d => d
  | .plus d => d
  | .minus d => d
  | .novy d => d

end Sys2Proof
end

