-- ==== Sys2Proof/WellFormed.lean ====
section
/-! DEFINITION. When an instruction is well formed: its device index is one of 0 to 9 (spec/30_encoding.md R62, R71).
An ill-formed one still has a meaning: it is answered NotFound (R64). -/

namespace Sys2Proof

/-- `dev` is 0 to 9 (R62): "In every valid row `dddd` must be 0000 to 1001" (R71). -/
def Instr.wf (i : Instr) : Bool := decide (i.dev.toNat ≤ 9)

end Sys2Proof
end

