-- ==== Sys2Proof/Decode.lean ====
section
/-! DEFINITION. The decoder of the 7-bit command word and its encoder (spec/30_encoding.md R60, R61, R64). -/

namespace Sys2Proof

/-- The field `op = cmd[6:4]` (R60). -/
def opField (cmd : BitVec 7) : BitVec 3 := cmd.extractLsb' 4 3

/-- The field `dev = cmd[3:0]` (R60). -/
def devField (cmd : BitVec 7) : BitVec 4 := cmd.extractLsb' 0 4

/-- The command a selector stands for; 5, 6 and 7 are not commands (R61, R64). -/
def opOf (op : BitVec 3) : Option Op :=
  match op.toNat with
  | 0 => some .light
  | 1 => some .power
  | 2 => some .plus
  | 3 => some .minus
  | 4 => some .novy
  | _ => none

/-- The selector of a command (R61). -/
def selector : Op → BitVec 3
  | .light => 0
  | .power => 1
  | .plus => 2
  | .minus => 3
  | .novy => 4

/-- Why a command word is no instruction, by name. -/
inductive DecodeError
  /-- The selector is 5, 6 or 7, "not commands" (R64). -/
  | reservedSelector (op : BitVec 3)
  deriving DecidableEq, Repr

/-- The instruction made of a command and a device index. -/
def instrOf (o : Op) (dev : BitVec 4) : Instr :=
  match o with
  | .light => .light dev
  | .power => .power dev
  | .plus => .plus dev
  | .minus => .minus dev
  | .novy => .novy dev

/-- The decoder, total on all 128 words (R64). A device index of 10 to 15 belongs to the instruction, whose meaning
answers it NotFound (R145). -/
def decode (cmd : BitVec 7) : Except DecodeError Instr :=
  match opOf (opField cmd) with
  | some o => .ok (instrOf o (devField cmd))
  | none => .error (.reservedSelector (opField cmd))

/-- The command word of an instruction (R60, R61, R71). -/
def encode (i : Instr) : BitVec 7 := selector i.op ++ i.dev

/-- What the decoder reads from a table word: bit 0 of `w` is bit 0 of `cmd`. A word has 7 bits, so a number of 128 or
more is no command word (log 8). -/
def decodeTableWord (nbits w : Nat) : Option Instr :=
  if w % 2 ^ nbits < 128 then
    match decode (BitVec.ofNat 7 (w % 2 ^ nbits)) with
    | .ok i => some i
    | .error _ => none
  else none

end Sys2Proof
end

