-- ==== Sys2Proof/Config.lean ====
section
/-! DEFINITION. The configuration record CFG (spec/00_scope.md R5, spec/10_state.md R25 to R31) and the model's free
values. The constants declared `opaque` have no body: nothing proved in this package can rest on what they are. -/

namespace Sys2Proof

/-- The read-only record CFG (R5), fixed before reset is released. A state carries one (log 2), so that a statement
about every state is a statement about every CFG, ill-formed ones included. `N_DEV` is the length of `devCode`;
`QUEUE_DEPTH` is 0, so there is no queue anywhere (R31, D10). -/
structure Cfg where
  /-- `PREFIX` (R25). -/
  prefixCode : BitString
  /-- `DEV_CODE`, ten entries (R26); their lengths are checked at run time (R31, R92). -/
  devCode : Vector BitString 10
  /-- `CMD_CODE[LIGHT]` (R27). -/
  lightCode : BitString
  /-- `CMD_CODE[POWER]` (R27). -/
  powerCode : BitString
  /-- `CMD_CODE[PLUS]` (R27). -/
  plusCode : BitString
  /-- `CMD_CODE[MINUS]` (R27). -/
  minusCode : BitString
  /-- `CMD_CODE[NOVY]` (R27). -/
  novyCode : BitString
  /-- `K`, the pulses per bit (R28). -/
  k : Nat
  /-- `SYM[0]` (R28). -/
  sym0 : List Pulse
  /-- `SYM[1]` (R28). -/
  sym1 : List Pulse
  /-- `T_GAP` in ticks (R29). -/
  tGap : Nat
  /-- `N_REPEAT` (R29). -/
  nRepeat : Nat
  /-- `T_SETTLE` in ticks (R30). -/
  tSettle : Nat
  /-- `T_TRAIL` in ticks (R30). -/
  tTrail : Nat
  /-- `T_TICK`, the real length of a tick, in whatever unit the platform counts; no rule reads it (R31, log 10). -/
  tTick : Nat
  deriving DecidableEq, Repr

namespace Config

/-! ### The OPEN values of CFG in the reset state (D1, D5 to D9; log 3)

Each duration and count is written as one more than a free number, so that it is at least 1 (R29, R30) and otherwise
unconstrained. -/

/-- Bit `j` of `DEV_CODE[i]`, for the indices 1 to 8 that no source gives (D9). -/
opaque devBit : Nat → Nat → Bool
/-- Bit `j` of `CMD_CODE[PLUS]` (D9). -/
opaque plusBit : Nat → Bool
/-- Bit `j` of `CMD_CODE[MINUS]` (D9). -/
opaque minusBit : Nat → Bool
/-- Bit `j` of `CMD_CODE[NOVY]` (D9). -/
opaque novyBit : Nat → Bool
/-- `T_SHORT - 1` (D5). -/
opaque shortPred : Nat
/-- `T_LONG - T_SHORT - 1` (D5: `T_SHORT < T_LONG`). -/
opaque longPred : Nat
/-- `T_GAP - 1` (D6). -/
opaque gapPred : Nat
/-- `N_REPEAT - 1` (D7). -/
opaque repeatPred : Nat
/-- `T_SETTLE - 1` (D8). -/
opaque settlePred : Nat
/-- `T_TRAIL - 1` (D8). -/
opaque trailPred : Nat
/-- `T_TICK - 1` (D1). -/
opaque tickPred : Nat

/-! ### The inputs of a tick that the state does not list (log 1) -/

/-- The level of `rst` on tick `n`. -/
opaque freeRst : Nat → Bool
/-- The level of `req_valid` on tick `n`. -/
opaque freeReqValid : Nat → Bool
/-- The word on `cmd[6:0]` on tick `n`. -/
opaque freeCmd : Nat → BitVec 7
/-- The level of `pin_fault` on tick `n`: a free draw under no law (R166). -/
opaque freePinFault : Nat → Bool

/-! ### Output wires that carry any value (log 7) -/

/-- What `req_code` shows on a tick `n` with `rst = 1` (U25). -/
opaque freeReqCode : Nat → BitVec 3
/-- What `done_code` shows on a tick `n` with `DONE_V = 0` (U33). -/
opaque freeDoneCode : Nat → BitVec 3

end Config

end Sys2Proof
end

