-- ==== Sys2Proof/Machine/CodeTable.lean ====
section
/-! DEFINITION. The contents of the Code Table that the source fixes, the record CFG of the reset state, and WF(CFG)
(spec/40_code_table.md R80, spec/10_state.md R25 to R31). -/

namespace Sys2Proof.Machine

/-- `PREFIX` (R80). -/
def sourcePrefix : BitString := bits [0, 1, 0, 1]
/-- `DEV_CODE[0]` (R80). -/
def sourceDev0 : BitString := bits [0, 1, 0, 1]
/-- `DEV_CODE[9]` (R80). -/
def sourceDev9 : BitString := bits [1, 0, 0, 0]
/-- `CMD_CODE[LIGHT]` (R80). -/
def sourceLight : BitString := bits [0, 1, 1, 1, 0, 1, 0, 0, 0, 1]
/-- `CMD_CODE[POWER]` (R80). -/
def sourcePower : BitString := bits [0, 1, 1, 1, 0, 1, 0, 0, 1, 1]

/-- The four bits `f 0` to `f 3`, leftmost first. -/
def fourBits (f : Nat → Bool) : BitString := [f 0, f 1, f 2, f 3]

/-- The symbol table in the shape of decision D5: `K = 2`, short-high and long-low for 0, long-high and short-low for 1
(R28, R70). -/
def exampleSym (tShort tLong : Nat) (b : Bit) : List Pulse :=
  if b then [⟨.high, tLong⟩, ⟨.low, tShort⟩] else [⟨.high, tShort⟩, ⟨.low, tLong⟩]

/-- `T_SHORT` of the reset state's CFG. -/
def platformShort : Nat := Config.shortPred + 1
/-- `T_LONG` of the reset state's CFG, above `T_SHORT` (D5). -/
def platformLong : Nat := platformShort + (Config.longPred + 1)

/-- The record CFG of the reset state (log 3): the source's values where it gives them, free values of the expected
length, or at least 1, where it leaves them OPEN (R5). -/
def platformCfg : Cfg where
  prefixCode := sourcePrefix
  devCode := #v[sourceDev0, fourBits (Config.devBit 1), fourBits (Config.devBit 2), fourBits (Config.devBit 3),
    fourBits (Config.devBit 4), fourBits (Config.devBit 5), fourBits (Config.devBit 6), fourBits (Config.devBit 7),
    fourBits (Config.devBit 8), sourceDev9]
  lightCode := sourceLight
  powerCode := sourcePower
  plusCode := fourBits Config.plusBit
  minusCode := fourBits Config.minusBit
  novyCode := fourBits Config.novyBit
  k := 2
  sym0 := exampleSym platformShort platformLong false
  sym1 := exampleSym platformShort platformLong true
  tGap := Config.gapPred + 1
  nRepeat := Config.repeatPred + 1
  tSettle := Config.settlePred + 1
  tTrail := Config.trailPred + 1
  tTick := Config.tickPred + 1

/-- Every pulse lasts at least one tick. -/
def durationsPositive (ps : List Pulse) : Bool := ps.all fun p => decide (1 ≤ p.dur)

/-- WF(CFG) (R31). The lengths of the device and command codes are deliberately no part of it: a wrong one is answered
InvalidLength at run time (R92). -/
def cfgWf (c : Cfg) : Bool :=
  c.prefixCode.length == 4 && decide (1 ≤ c.k) && c.sym0.length == c.k && c.sym1.length == c.k &&
    durationsPositive c.sym0 && durationsPositive c.sym1 &&
    decide (1 ≤ c.tGap) && decide (1 ≤ c.nRepeat) && decide (1 ≤ c.tSettle) && decide (1 ≤ c.tTrail)

/-- CFG holds the five entries that the source fixes (R5, R80). -/
def sourceEntries (c : Cfg) : Bool :=
  c.prefixCode == sourcePrefix && c.devCode[0] == sourceDev0 && c.devCode[9] == sourceDev9 &&
    c.lightCode == sourceLight && c.powerCode == sourcePower

end Sys2Proof.Machine
end

