-- ==== Sys2Proof/Machine/State.lean ====
section
/-! DEFINITION. The machine's state as plain data: the twelve registers of spec/10_state.md R10, and beside them CFG, the
inputs and the model's own two fields; the state after reset (R35); the faults and refusals. -/

namespace Sys2Proof.Machine

/-- The driver state ST (R11). Its 2-bit encoding is unobservable (D2). -/
inductive DriverState
  | idle
  | poweringUp
  | transmitting
  | poweringDown
  deriving DecidableEq, Repr

/-- The job registers, the TransmissionJob in flight (R12, R13). They hold values together or not at all (R14). -/
structure Job where
  /-- FRAME, index 0 first on the air (R12). -/
  frame : BitString
  /-- FLEN (R13). -/
  flen : Nat
  /-- REP_N (R13). -/
  repN : Nat
  deriving DecidableEq, Repr

/-- The sequencer position (R17). `bit = FLEN` stands for the gap pulse. -/
structure Pos where
  /-- REP. -/
  rep : Nat
  /-- BIT. -/
  bit : Nat
  /-- SYM. -/
  sym : Nat
  deriving DecidableEq, Repr

/-- The twelve registers (R10). `none` is the "no value" that R14, R17, R18, R23 and R35 give a register, not a missing
reset value (log 4). -/
structure Regs where
  /-- ST (R11). -/
  st : DriverState
  /-- FRAME, FLEN, REP_N (R12 to R14). -/
  job : Option Job
  /-- REP, BIT, SYM (R17). -/
  pos : Option Pos
  /-- CNT (R18). -/
  cnt : Option Nat
  /-- TX (R24). -/
  tx : Level
  /-- PWR (R24). -/
  pwr : Bool
  /-- DONE_V (R23). -/
  doneV : Bool
  /-- DONE_C (R23). -/
  doneC : Option ResultCode
  deriving DecidableEq, Repr

/-- The levels on the input ports during one tick (R37). -/
structure Inputs where
  rst : Bool
  reqValid : Bool
  cmd : BitVec 7
  pinFault : Bool
  deriving DecidableEq, Repr

/-- The state of the model: the block's registers, and what the host's step, a function of the state alone, must find
beside them. -/
structure State where
  /-- The twelve registers of the block (R10). -/
  regs : Regs
  /-- CFG, a parameter of the step that no step writes (R5, log 2). -/
  cfg : Cfg
  /-- The inputs of this tick and of the ticks after it, oldest first; past its end they are free (log 1). -/
  inputs : List Inputs
  /-- The number of the tick, which only the free values read (log 5). -/
  tick : Nat
  /-- What the request of the tick just ended was answered on `req_code`; no rule reads it (log 6). -/
  answer : Option ResultCode
  deriving DecidableEq, Repr

/-- The registers after reset (R35). -/
def Regs.reset : Regs where
  st := .idle
  job := none
  pos := none
  cnt := none
  tx := .low
  pwr := false
  doneV := false
  doneC := none

/-- The machine right after reset (R35): it waits in Idle for a request (R186). -/
def State.reset : State where
  regs := Regs.reset
  cfg := platformCfg
  inputs := []
  tick := 0
  answer := none

/-- Which register a model fault names. -/
inductive RegName
  | frame
  | pos
  | cnt
  deriving DecidableEq, Repr

/-- Why the model stops. No state that meets the invariant of R36 under a well-formed CFG raises one. -/
inductive Fault
  /-- Raised by the driver's tick where a rule would read a register that holds no value: "a model fault, never a
  value" (R8, R14). Safe. -/
  | noValue (r : RegName)
  /-- Raised by the driver's tick outside Idle when CNT is 0, for which no rule gives a step (R18: `CNT >= 1`).
  Safe. -/
  | countExhausted
  /-- Raised by the driver's tick when the position names no pulse, that is SYM is not below the length of the symbol
  or BIT is not below the length of FRAME (R21 says neither happens). Safe. -/
  | noPulse
  deriving DecidableEq, Repr

/-- Why the model has no behaviour. -/
inductive Refusal
  /-- Raised by an arm of `exec` for an instruction that has no meaning yet; no arm does. Safe. -/
  | notModelled (mnemonic : String)
  /-- Raised by every tick under a CFG that fails WF(CFG): "A model refuses to run" (R31, U40).
  Safe. -/
  | illFormedCfg
  deriving DecidableEq, Repr

end Sys2Proof.Machine
end

