-- ==== Sys2Proof/Machine/Ops.lean ====
section
/-! DEFINITION. The named operations: reading the ROMs, the inputs of a tick, the sequencer's position, the pin
operations and the register loads of each transition, taking a hardware fault (spec/20_memory.md,
spec/10_state.md R17 to R19, spec/43_ook_modulator.md, spec/60_exceptions.md R167). -/

namespace Sys2Proof.Machine

/-! ### The four read-only spaces -/

/-- The address spaces of the block (R40). None is writable: there is no MemWrite (R44). -/
inductive Space
  | prefixRom
  | devRom
  | cmdRom
  | symRom
  deriving DecidableEq, Repr

/-- The index set of a space (R40), so that a read outside it cannot be written down (R41). -/
abbrev Space.Index : Space → Type
  | .prefixRom => Unit
  | .devRom => Fin 10
  | .cmdRom => Op
  | .symRom => Bit

/-- What an entry of a space is (R41). -/
abbrev Space.Entry : Space → Type
  | .prefixRom => BitString
  | .devRom => BitString
  | .cmdRom => BitString
  | .symRom => List Pulse

/-- `MemRead(space, index)`: the whole entry, with no side effect (R41). -/
def memRead (c : Cfg) : (sp : Space) → sp.Index → sp.Entry
  | .prefixRom, _ => c.prefixCode
  | .devRom, i => c.devCode.get i
  | .cmdRom, .light => c.lightCode
  | .cmdRom, .power => c.powerCode
  | .cmdRom, .plus => c.plusCode
  | .cmdRom, .minus => c.minusCode
  | .cmdRom, .novy => c.novyCode
  | .symRom, false => c.sym0
  | .symRom, true => c.sym1

/-! ### The inputs of a tick -/

/-- The inputs of tick `n` where the state lists none: free values (log 1). -/
def freeInputs (n : Nat) : Inputs where
  rst := Config.freeRst n
  reqValid := Config.freeReqValid n
  cmd := Config.freeCmd n
  pinFault := Config.freePinFault n

/-- The inputs `k` ticks from now, as this state has them. -/
def State.inputAt (s : State) (k : Nat) : Inputs :=
  match s.inputs[k]? with
  | some i => i
  | none => freeInputs (s.tick + k)

/-- The inputs of this tick (R126). -/
def State.now (s : State) : Inputs := s.inputAt 0

/-! ### The sequencer's position -/

/-- The gap pulse (R102). -/
def gapPulse (c : Cfg) : Pulse := ⟨.low, c.tGap⟩

/-- `pulse_at` (R17): the pulse at a position, `none` where the position names none. -/
def pulseAt (c : Cfg) (j : Job) (p : Pos) : Option Pulse :=
  if p.bit < j.flen then
    match j.frame[p.bit]? with
    | some b => (memRead c .symRom b)[p.sym]?
    | none => none
  else some (gapPulse c)

/-- The first position of a job (R19). -/
def firstPos : Pos := ⟨0, 0, 0⟩

/-- `next` (R19). -/
def nextPos (c : Cfg) (j : Job) (p : Pos) : Option Pos :=
  if p.bit < j.flen ∧ p.sym + 1 < c.k then some ⟨p.rep, p.bit, p.sym + 1⟩
  else if p.bit < j.flen then some ⟨p.rep, p.bit + 1, 0⟩
  else if p.rep + 1 < j.repN then some ⟨p.rep + 1, 0, 0⟩
  else none

/-! ### Register loads -/

/-- `SetPwr(b)` (R116). -/
def Regs.setPwr (r : Regs) (b : Bool) : Regs := { r with pwr := b }

/-- `SetTx(l)` (R116). -/
def Regs.setTx (r : Regs) (l : Level) : Regs := { r with tx := l }

/-- `DONE_V' = 0`, and DONE_C holds no value: what every step does that does not say otherwise (R23, R126). -/
def Regs.dropReport (r : Regs) : Regs := { r with doneV := false, doneC := none }

/-- One tick of an interval that is not over: `CNT' = n` (R128). -/
def Regs.countDown (r : Regs) (n : Nat) : Regs := { r.dropReport with cnt := some n }

/-- The registers of Idle: outputs at rest, no job, no position, no count (R35, R186), and on the tick after a job its
report (R23). -/
def idleRegs (report : Option ResultCode) : Regs :=
  { Regs.reset with doneV := report.isSome, doneC := report }

/-- Idle to PoweringUp with drive operation 0, `SetPwr(1)`, driven (R119, R127); the job registers are loaded (R143). -/
def Regs.powerUp (c : Cfg) (r : Regs) (frame : BitString) : Regs :=
  { (r.dropReport.setPwr true).setTx .low with
    st := .poweringUp, cnt := some c.tSettle, job := some ⟨frame, frame.length, c.nRepeat⟩ }

/-- A pulse starts: its `SetTx` is driven, and CNT is loaded with its duration (R121, R129, R130). -/
def Regs.play (r : Regs) (p : Pos) (pulse : Pulse) : Regs :=
  { r.dropReport.setTx pulse.level with st := .transmitting, pos := some p, cnt := some pulse.dur }

/-- Transmitting to PoweringDown with the final `SetTx(LOW)` driven (R122, R130). -/
def Regs.powerDown (c : Cfg) (r : Regs) : Regs :=
  { r.dropReport.setTx .low with st := .poweringDown, pos := none, cnt := some c.tTrail }

/-- PoweringDown to Idle with `SetPwr(0)` driven: completion is reported (R123, R131). -/
def completed : Regs := idleRegs (some .ok)

/-- Taking a hardware fault, from whatever state the drive operation faulted in (R132, R167): nothing is saved, the
outputs are cleared, the report is made. There is no return from it (R169). -/
def takeFault : Regs := idleRegs (some .hardwareFault)

/-- A drive operation and its answer (R117): driven, the registers are `driven`; faulted, the job is over (R124). -/
def drive (pinFault : Bool) (driven : Regs) : Regs := if pinFault then takeFault else driven

/-! ### Ending a tick -/

/-- The end of a tick: the registers are loaded, the inputs move on by one tick, and the answer on `req_code` is
recorded. -/
def State.endTick (s : State) (r : Regs) (answer : Option ResultCode) : State :=
  { s with regs := r, inputs := s.inputs.tail, tick := s.tick + 1, answer := answer }

/-- Any tick of the machine: under a CFG that fails WF(CFG) the model refuses to run (R31, U40, D28). -/
def State.underWf (s : State) (tick : Host.Outcome State Fault Refusal) : Host.Outcome State Fault Refusal :=
  if cfgWf s.cfg then tick else .refused .illFormedCfg

/-- A tick with `rst = 1` (R185): the reset registers, whatever the state and the other inputs. -/
def resetTick (s : State) : Host.Outcome State Fault Refusal := s.underWf (.next (s.endTick Regs.reset none))

end Sys2Proof.Machine
end

