-- ==== Sys2Proof/Machine/Operands.lean ====
section
/-! DEFINITION. The operands of a command word, resolved: the two lookups (spec/40_code_table.md R81, R82), the Frame
Encoder (spec/41_frame_encoder.md R90, R92) and their sequence, `decode` of spec/44_command_dispatch.md R141. -/

namespace Sys2Proof.Machine

/-- `lookup_device(index)` (R81). -/
def lookupDevice (c : Cfg) (dev : BitVec 4) : Except ResultCode BitString :=
  if h : dev.toNat ≤ 9 then .ok (memRead c .devRom ⟨dev.toNat, Nat.lt_succ_of_le h⟩) else .error .notFound

/-- `lookup_command(op)` (R82), with the command whose code it is, which `encode` is told (R90). -/
def lookupCommand (c : Cfg) (op : BitVec 3) : Except ResultCode (Op × BitString) :=
  match opOf op with
  | some o => .ok (o, memRead c .cmdRom o)
  | none => .error .notFound

/-- `CLEN(op)` (R27, R90). -/
def clen : Op → Nat
  | .light => 10
  | .power => 10
  | .plus => 4
  | .minus => 4
  | .novy => 4

/-- `encode(op, prefix, device_code, command_code)` (R90): a wrong length is never truncated or padded (R92). -/
def encodeFrame (o : Op) (pfx deviceCode commandCode : BitString) : Except ResultCode BitString :=
  if pfx.length ≠ 4 then .error .invalidLength
  else if deviceCode.length ≠ 4 then .error .invalidLength
  else if commandCode.length ≠ clen o then .error .invalidLength
  else .ok (pfx ++ deviceCode ++ commandCode)

/-- `decode(op, dev)` (R141): the frame of a command word, or the first error encountered. -/
def resolve (c : Cfg) (op : BitVec 3) (dev : BitVec 4) : Except ResultCode BitString :=
  match lookupDevice c dev with
  | .error e => .error e
  | .ok deviceCode =>
    match lookupCommand c op with
    | .error e => .error e
    | .ok (o, commandCode) => encodeFrame o (memRead c .prefixRom ()) deviceCode commandCode

end Sys2Proof.Machine
end

