-- ==== Sys2Proof/Machine/Flags.lean ====
section
/-! DEFINITION. The flags and the output ports: BUSY (spec/10_state.md R22), the answer to a request
(spec/44_command_dispatch.md R141), the numbers of the results (spec/60_exceptions.md R161), and every output of
spec/10_state.md R37. -/

namespace Sys2Proof.Machine

/-- BUSY, `ST != Idle` (R22). -/
def busy (r : Regs) : Bool := r.st != .idle

/-- `req_code` for a request on a tick without reset (R141). -/
def answerOf (c : Cfg) (r : Regs) (op : BitVec 3) (dev : BitVec 4) : ResultCode :=
  match resolve c op dev with
  | .error e => e
  | .ok _ => if busy r then .busy else .ok

/-- The frame of a request that is accepted, that is, answered OK (R141, R143). -/
def accepted (c : Cfg) (r : Regs) (op : BitVec 3) (dev : BitVec 4) : Option BitString :=
  match resolve c op dev with
  | .error _ => none
  | .ok frame => if busy r then none else some frame

/-- The answer that the tick records: that of its request, none where there is no request or a reset (R140, R185). -/
def tickAnswer (s : State) : Option ResultCode :=
  if s.now.rst then none
  else if s.now.reqValid then some (answerOf s.cfg s.regs (opField s.now.cmd) (devField s.now.cmd))
  else none

/-- The frame of the request accepted on this tick, none where there is none (R127, R140, R185). -/
def tickRequest (s : State) : Option BitString :=
  if s.now.rst then none
  else if s.now.reqValid then accepted s.cfg s.regs (opField s.now.cmd) (devField s.now.cmd)
  else none

/-- The 3-bit number of a result (R161). -/
def resultBits : ResultCode → BitVec 3
  | .ok => 0
  | .notFound => 1
  | .invalidLength => 2
  | .busy => 3
  | .hardwareFault => 4

/-- The 2-bit encoding of ST (R11), which no rule reads (D2). -/
def driverBits : DriverState → BitVec 2
  | .idle => 0
  | .poweringUp => 1
  | .transmitting => 2
  | .poweringDown => 3

/-- The bit of a level on `tx_data` (R24, R37). -/
def levelBit : Level → Bool
  | .low => false
  | .high => true

/-- The output ports (R37). -/
structure Outputs where
  reqCode : BitVec 3
  busy : Bool
  doneValid : Bool
  doneCode : BitVec 3
  txData : Bool
  pwrEn : Bool
  deriving DecidableEq, Repr

/-- `req_code` on this tick: any value on a reset tick (R185, U25), 0 without a request (R140), else the answer. -/
def reqCodePort (s : State) : BitVec 3 :=
  if s.now.rst then Config.freeReqCode s.tick
  else if s.now.reqValid then resultBits (answerOf s.cfg s.regs (opField s.now.cmd) (devField s.now.cmd))
  else resultBits .ok

/-- `done_code` on this tick: DONE_C, any value where it holds none (R23, U33). -/
def doneCodePort (s : State) : BitVec 3 :=
  match s.regs.doneC with
  | some code => resultBits code
  | none => Config.freeDoneCode s.tick

/-- The outputs during the tick (R37, R126); `req_code` alone depends on the inputs of the tick. -/
def outputs (s : State) : Outputs where
  reqCode := reqCodePort s
  busy := busy s.regs
  doneValid := s.regs.doneV
  doneCode := doneCodePort s
  txData := levelBit s.regs.tx
  pwrEn := s.regs.pwr

end Sys2Proof.Machine
end

