-- ==== Sys2Proof/Machine/Pulses.lean ====
section
/-! DEFINITION. The Pulse Timing Engine as the pure function the spec gives (spec/42_pulse_timing_engine.md), its counts
and durations, the waveform, and the linear pulse index of spec/10_state.md R20. The hardware walks the list by
position and never stores it. -/

namespace Sys2Proof.Machine

/-- `symbols(frame)` (R101). -/
def symbols (c : Cfg) (frame : BitString) : List Pulse := frame.flatMap fun b => memRead c .symRom b

/-- `repetition(frame)`: the symbols, then one gap pulse (R103). -/
def repetition (c : Cfg) (frame : BitString) : List Pulse := symbols c frame ++ [gapPulse c]

/-- `to_pulses(frame)`: the repetition, `N_REPEAT` times (R104). -/
def toPulses (c : Cfg) (frame : BitString) : List Pulse := (List.replicate c.nRepeat (repetition c frame)).flatten

/-- The sum of the durations of a list of pulses. -/
def totalDur (ps : List Pulse) : Nat := (ps.map Pulse.dur).sum

/-- `dur(b)` (R106). -/
def symDur (c : Cfg) (b : Bit) : Nat := totalDur (memRead c .symRom b)

/-- `start(i)`, the offset at which pulse `i` begins (R109). -/
def startOf (ps : List Pulse) (i : Nat) : Nat := totalDur (ps.take i)

/-- The waveform of a pulse list (R109): the level at tick offset `u`, `none` past the end. -/
def wave : List Pulse → Nat → Option Level
  | [], _ => none
  | p :: ps, u => if u < p.dur then some p.level else wave ps (u - p.dur)

/-- `P1`, the pulses of one repetition (R20). -/
def pulsesPerRepetition (c : Cfg) (j : Job) : Nat := j.flen * c.k + 1

/-- `PIDX`, the number of the pulse at a position (R20). -/
def pulseIndex (c : Cfg) (j : Job) (p : Pos) : Nat := p.rep * pulsesPerRepetition c j + p.bit * c.k + p.sym

/-- `T_JOB`, the ticks for which a job keeps `busy = 1` (R134). -/
def jobTicks (c : Cfg) (frame : BitString) : Nat := c.tSettle + totalDur (toPulses c frame) + c.tTrail

end Sys2Proof.Machine
end

