-- ==== Sys2Proof/Machine/Driver.lean ====
section
/-! DEFINITION. The OOK modulator: the step of the engine, tick by tick (spec/43_ook_modulator.md R126 to R132), which is
the level the machine runs at, and the same job as a trace of pin operations (R118, R124, R125). -/

namespace Sys2Proof.Machine

/-! ### The tick -/

/-- The step in Idle (R127); `req` is the frame of an accepted request. -/
def idleTick (c : Cfg) (r : Regs) (req : Option BitString) (pinFault : Bool) : Regs :=
  match req with
  | none => r.dropReport
  | some frame => drive pinFault (r.powerUp c frame)

/-- Counting down (R128): `last` is what the last tick of the interval does. -/
def countdown (r : Regs) (last : Except Fault Regs) : Except Fault Regs :=
  match r.cnt with
  | none => .error (.noValue .cnt)
  | some 0 => .error .countExhausted
  | some 1 => last
  | some (n + 2) => .ok (r.countDown (n + 1))

/-- The pulse at `p` starts with its drive operation (R129, R130). -/
def startPulse (c : Cfg) (r : Regs) (j : Job) (p : Pos) (pinFault : Bool) : Except Fault Regs :=
  match pulseAt c j p with
  | some pulse => .ok (drive pinFault (r.play p pulse))
  | none => .error .noPulse

/-- The settle delay ends (R129). -/
def settleEnds (c : Cfg) (r : Regs) (pinFault : Bool) : Except Fault Regs :=
  match r.job with
  | some j => startPulse c r j firstPos pinFault
  | none => .error (.noValue .frame)

/-- The current pulse ends (R130). -/
def pulseEnds (c : Cfg) (r : Regs) (pinFault : Bool) : Except Fault Regs :=
  match r.job, r.pos with
  | some j, some p =>
    match nextPos c j p with
    | some q => startPulse c r j q pinFault
    | none => .ok (drive pinFault (r.powerDown c))
  | none, _ => .error (.noValue .frame)
  | some _, none => .error (.noValue .pos)

/-- The step of the engine on a tick without reset (R126): the next registers from CFG, the registers, the frame of a
request accepted on this tick, and the environment's answer. -/
def engineTick (c : Cfg) (r : Regs) (req : Option BitString) (pinFault : Bool) : Except Fault Regs :=
  match r.st with
  | .idle => .ok (idleTick c r req pinFault)
  | .poweringUp => countdown r (settleEnds c r pinFault)
  | .transmitting => countdown r (pulseEnds c r pinFault)
  | .poweringDown => countdown r (.ok (drive pinFault completed))

/-- Whether the step of this tick performs a drive operation, so that `pin_fault` is looked at (R126, R128). -/
def performsDrive (r : Regs) (req : Option BitString) : Bool :=
  match r.st with
  | .idle => req.isSome
  | _ => r.cnt == some 1

/-- A tick of the machine without reset, for a request accepted with frame `req` or none, answered `answer` (R126,
R31). -/
def runTick (s : State) (req : Option BitString) (answer : Option ResultCode) : Host.Outcome State Fault Refusal :=
  s.underWf <|
    match engineTick s.cfg s.regs req s.now.pinFault with
    | .ok r => .next (s.endTick r answer)
    | .error e => .fault e

/-- A tick on which the command word with selector `op` and device index `dev` is presented (R141 to R143): the answer,
and the engine's step with the request if it is accepted, without it if it is not. -/
def requestTick (op : BitVec 3) (dev : BitVec 4) (s : State) : Host.Outcome State Fault Refusal :=
  runTick s (accepted s.cfg s.regs op dev) (some (answerOf s.cfg s.regs op dev))

/-- A tick without a request (R140). -/
def quietTick (s : State) : Host.Outcome State Fault Refusal := runTick s none none

/-! ### The job as a trace -/

/-- The pin operations (R116). -/
inductive PinOp
  | setPwr (b : Bool)
  | setTx (l : Level)
  | wait (d : Nat)
  deriving DecidableEq, Repr

/-- The drive operations are `SetPwr` and `SetTx` (R116). -/
def PinOp.isDrive : PinOp → Bool
  | .setPwr _ => true
  | .setTx _ => true
  | .wait _ => false

/-- The ticks an operation takes: a drive operation takes none of its own (R116). -/
def PinOp.ticks : PinOp → Nat
  | .setPwr _ => 0
  | .setTx _ => 0
  | .wait d => d

/-- `trace(pulses)`: the job whose every drive operation is driven (R118). -/
def trace (c : Cfg) (ps : List Pulse) : List PinOp :=
  [.setPwr true, .wait c.tSettle] ++ ps.flatMap (fun p => [.setTx p.level, .wait p.dur]) ++
    [.setTx .low, .wait c.tTrail, .setPwr false]

/-- An entry of what happened on the pins: an operation, or the marker of the drive operation that faulted (R124). -/
inductive TraceItem
  | op (o : PinOp)
  | fault (j : Nat)
  deriving DecidableEq, Repr

/-- The loop of `transmit` (R125) over the operations still to come, `j` the number of the next drive operation. -/
def playTrace (answers : Nat → Bool) : List PinOp → Nat → List TraceItem × ResultCode
  | [], _ => ([], .ok)
  | o :: rest, j =>
    if o.isDrive && answers j then ([.fault j], .hardwareFault)
    else
      let played := playTrace answers rest (if o.isDrive then j + 1 else j)
      (.op o :: played.1, played.2)

/-- `transmit(pulses, answers)` (R125): what happened on the pins, and the result. `answers j` says that drive operation
`j` is answered fault. -/
def transmit (c : Cfg) (ps : List Pulse) (answers : Nat → Bool) : List TraceItem × ResultCode :=
  playTrace answers (trace c ps) 0

/-- `dispatch(op, dev)` at job level (R144): the error of the request, or the pair of `transmit`. -/
def dispatch (c : Cfg) (r : Regs) (op : BitVec 3) (dev : BitVec 4) (answers : Nat → Bool) : List TraceItem × ResultCode :=
  match resolve c op dev with
  | .error e => ([], e)
  | .ok frame => if busy r then ([], .busy) else transmit c (toPulses c frame) answers

end Sys2Proof.Machine
end

