-- ==== Sys2Proof/Machine/Commands.lean ====
section
/-! DEFINITION. The five commands (spec/44_command_dispatch.md R145 to R149) and the words that are none. A meaning is the
whole tick on which the command word is presented with `rst = 0`: the answer, and the job started or not. The ticks that
play the job's pulses follow. -/

namespace Sys2Proof.Machine

/-- LIGHT (R145): the frame is PREFIX, DEV_CODE[dev], CMD_CODE[LIGHT], 18 bits. -/
def execLight (dev : BitVec 4) (s : State) : Host.Outcome State Fault Refusal := requestTick (selector .light) dev s

/-- POWER (R146): the frame is PREFIX, DEV_CODE[dev], CMD_CODE[POWER], 18 bits. -/
def execPower (dev : BitVec 4) (s : State) : Host.Outcome State Fault Refusal := requestTick (selector .power) dev s

/-- PLUS (R147): the frame is PREFIX, DEV_CODE[dev], CMD_CODE[PLUS], 12 bits. -/
def execPlus (dev : BitVec 4) (s : State) : Host.Outcome State Fault Refusal := requestTick (selector .plus) dev s

/-- MINUS (R148): the frame is PREFIX, DEV_CODE[dev], CMD_CODE[MINUS], 12 bits. -/
def execMinus (dev : BitVec 4) (s : State) : Host.Outcome State Fault Refusal := requestTick (selector .minus) dev s

/-- NOVY (R149): treated exactly like PLUS and MINUS, with CMD_CODE[NOVY]. -/
def execNovy (dev : BitVec 4) (s : State) : Host.Outcome State Fault Refusal := requestTick (selector .novy) dev s

/-- A word whose selector is no command (R64): its request is answered NotFound and has no other effect (R162). -/
def unknownCommand (cmd : BitVec 7) (s : State) : Host.Outcome State Fault Refusal :=
  requestTick (opField cmd) (devField cmd) s

/-- What a tick without reset is to do: the word on the port decoded, if one is presented (R140). -/
inductive Fetched
  | noRequest
  | command (i : Instr)
  | notACommand (cmd : BitVec 7)
  deriving DecidableEq, Repr

/-- The request port read and decoded (R140, R141). -/
def fetch (i : Inputs) : Fetched :=
  if i.reqValid then
    match decode i.cmd with
    | .ok instr => .command instr
    | .error _ => .notACommand i.cmd
  else .noRequest

/-- The inputs of a tick that presents the command word `w` and is otherwise as `i` was: `rst = 0`, `req_valid = 1`. -/
def Inputs.present (i : Inputs) (w : BitVec 7) : Inputs := { i with rst := false, reqValid := true, cmd := w }

/-- The quiet inputs: no reset, no request, every drive operation driven. -/
def Inputs.quiet : Inputs where
  rst := false
  reqValid := false
  cmd := 0
  pinFault := false

end Sys2Proof.Machine
end

