-- ==== Sys2Proof/Machine/Dispatch.lean ====
section
/-! DEFINITION. The meaning of every instruction, by name. -/

namespace Sys2Proof.Machine

def exec (i : Instr) (s : State) : Host.Outcome State Fault Refusal :=
  match i with
  | .light dev => Sys2Proof.Machine.execLight dev s
  | .power dev => Sys2Proof.Machine.execPower dev s
  | .plus dev => Sys2Proof.Machine.execPlus dev s
  | .minus dev => Sys2Proof.Machine.execMinus dev s
  | .novy dev => Sys2Proof.Machine.execNovy dev s

end Sys2Proof.Machine
end

