-- ==== Sys2Proof/Machine/Step.lean ====
section
/-! DEFINITION. One tick of the machine (spec/43_ook_modulator.md R126). -/

namespace Sys2Proof.Machine

/-- The step (R126): reset if `rst = 1` (R185); else the command on the request port, a word that is no command, or no
request at all. -/
def step (s : State) : Host.Outcome State Fault Refusal :=
  if s.now.rst then resetTick s
  else
    match fetch s.now with
    | .noRequest => quietTick s
    | .command i => exec i s
    | .notACommand cmd => unknownCommand cmd s

/-- The state with the command word of the table presented on this tick's request port (log 8): `rst` is 0, `req_valid`
is 1, `cmd` is the word; `pin_fault` keeps its listed level, and is 0 where none is listed. -/
def State.withFetchWord (s : State) (nbits w : Nat) : State :=
  { s with
    inputs := ((s.inputs.head?.getD Inputs.quiet).present (BitVec.ofNat 7 (w % 2 ^ nbits))) :: s.inputs.tail }

end Sys2Proof.Machine
end

