-- ==== Sys2Proof/Safety.lean ====
section
/-! DEFINITION. What the claims speak in terms of: the invariant of spec/10_state.md R36, runs of several ticks, the job
timeline of spec/43_ook_modulator.md R133. -/

namespace Sys2Proof.Machine

/-! ### The invariant -/

/-- The job registers of a job in flight (R36 f). -/
structure Job.Sound (c : Cfg) (j : Job) : Prop where
  flen_legal : j.flen = 12 ∨ j.flen = 18
  frame_length : j.frame.length = j.flen
  repeat_count : j.repN = c.nRepeat

/-- The bounds of the position while Transmitting (R17, R21). -/
structure Pos.InRange (c : Cfg) (j : Job) (p : Pos) : Prop where
  rep_lt : p.rep < j.repN
  bit_le : p.bit ≤ j.flen
  sym_lt : p.sym < c.k
  gap_sym : p.bit = j.flen → p.sym = 0

/-- What R14, R17, R18, R23 and R36 say of the registers in each driver state. -/
inductive Regs.Inv (c : Cfg) : Regs → Prop
  /-- Idle: outputs at rest, nothing else holds a value but the report (R36 a, e; R14; R23). -/
  | idle (report : Option ResultCode) (legal : report = none ∨ report = some .ok ∨ report = some .hardwareFault) :
      Regs.Inv c
        { st := .idle, job := none, pos := none, cnt := none, tx := .low, pwr := false, doneV := report.isSome,
          doneC := report }
  /-- PoweringUp: power on, transmit line low (R36 b, f). -/
  | poweringUp (j : Job) (n : Nat) (sound : j.Sound c) (count : 1 ≤ n ∧ n ≤ c.tSettle) :
      Regs.Inv c
        { st := .poweringUp, job := some j, pos := none, cnt := some n, tx := .low, pwr := true, doneV := false,
          doneC := none }
  /-- Transmitting: power on, the transmit line at the level of the current pulse (R36 c, f). -/
  | transmitting (j : Job) (p : Pos) (pulse : Pulse) (n : Nat) (sound : j.Sound c) (range : p.InRange c j)
      (current : pulseAt c j p = some pulse) (count : 1 ≤ n ∧ n ≤ pulse.dur) :
      Regs.Inv c
        { st := .transmitting, job := some j, pos := some p, cnt := some n, tx := pulse.level, pwr := true,
          doneV := false, doneC := none }
  /-- PoweringDown: power on, transmit line low (R36 d, f). -/
  | poweringDown (j : Job) (n : Nat) (sound : j.Sound c) (count : 1 ≤ n ∧ n ≤ c.tTrail) :
      Regs.Inv c
        { st := .poweringDown, job := some j, pos := none, cnt := some n, tx := .low, pwr := true, doneV := false,
          doneC := none }

/-- The invariant of the machine. -/
def State.Inv (s : State) : Prop := Regs.Inv s.cfg s.regs

/-! ### Runs -/

/-- `n` ticks, stopping at the first fault or refusal. -/
def runTicks : Nat → State → Host.Outcome State Fault Refusal
  | 0, s => .next s
  | n + 1, s =>
    match step s with
    | .next t => runTicks n t
    | .fault e => .fault e
    | .refused e => .refused e

/-! ### The timeline of a job (R133)

Ticks are counted from the request: offset 0 is the tick on which the command is accepted. -/

/-- What a tick of the timeline shows. -/
structure View where
  st : DriverState
  pwr : Bool
  tx : Level
  doneV : Bool
  doneC : Option ResultCode
  deriving DecidableEq, Repr

/-- What the registers show. -/
def Regs.view (r : Regs) : View := ⟨r.st, r.pwr, r.tx, r.doneV, r.doneC⟩

/-- The row of R133 at offset `n`, from 1 on. -/
def timelineRow (c : Cfg) (frame : BitString) (n : Nat) : View :=
  let ps := toPulses c frame
  if n ≤ c.tSettle then ⟨.poweringUp, true, .low, false, none⟩
  else if n ≤ c.tSettle + totalDur ps then
    ⟨.transmitting, true, (wave ps (n - c.tSettle - 1)).getD .low, false, none⟩
  else if n ≤ jobTicks c frame then ⟨.poweringDown, true, .low, false, none⟩
  else ⟨.idle, false, .low, true, some .ok⟩

/-- The offset of the tick on which the answer to drive operation `j` is sampled (last column of R133). The operations
are numbered 0 to P + 2 (R118). -/
def driveOffset (c : Cfg) (frame : BitString) (j : Nat) : Nat :=
  let ps := toPulses c frame
  if j = 0 then 0
  else if j ≤ ps.length + 1 then c.tSettle + startOf ps (j - 1)
  else jobTicks c frame

/-- The answer that the environment gives drive operation `j` of a job accepted now: `pin_fault` on its tick. -/
def State.driveAnswer (s : State) (frame : BitString) (j : Nat) : Bool :=
  (s.inputAt (driveOffset s.cfg frame j)).pinFault

/-- A request accepted on this tick with frame `frame`: no reset, a command word that resolves, ST = Idle (R141). -/
structure State.Accepts (s : State) (frame : BitString) : Prop where
  no_reset : s.now.rst = false
  request : s.now.reqValid = true
  resolved : resolve s.cfg (opField s.now.cmd) (devField s.now.cmd) = .ok frame
  idle : s.regs.st = .idle

/-- No reset on any of the next `n` ticks. -/
def State.NoResetFor (s : State) (n : Nat) : Prop := ∀ k, k < n → (s.inputAt k).rst = false

/-! ### Abbreviations of the statements -/

/-- All 128 command words. -/
def allWords : List (BitVec 7) := (List.range 128).map (BitVec.ofNat 7)

/-- The result of resolving a command word. -/
def resolveWord (c : Cfg) (w : BitVec 7) : Except ResultCode BitString := resolve c (opField w) (devField w)

/-- Every device and command code has the length of R80's table. -/
def soundLengths (c : Cfg) : Bool :=
  c.prefixCode.length == 4 && c.devCode.toList.all (fun d => d.length == 4) && c.lightCode.length == 10 &&
    c.powerCode.length == 10 && c.plusCode.length == 4 && c.minusCode.length == 4 && c.novyCode.length == 4

/-- The registers after a hardware fault (R132). -/
def faultedRegs : Regs :=
  { st := .idle, job := none, pos := none, cnt := none, tx := .low, pwr := false, doneV := true,
    doneC := some .hardwareFault }

/-- The registers that acceptance leaves when `SetPwr(1)` is driven (R127, R143). -/
def startedRegs (s : State) (frame : BitString) (flen : Nat) : Regs :=
  { st := .poweringUp, job := some ⟨frame, flen, s.cfg.nRepeat⟩, pos := s.regs.pos, cnt := some s.cfg.tSettle, tx := .low,
    pwr := true, doneV := false, doneC := none }

/-- The tick that `o` would be with the answer `a` recorded instead of its own. -/
def withAnswer (a : Option ResultCode) : Host.Outcome State Fault Refusal → Host.Outcome State Fault Refusal
  | .next t => .next { t with answer := a }
  | .fault e => .fault e
  | .refused e => .refused e

end Sys2Proof.Machine
end

