-- ==== Sys2Proof/Certificates/Slice0/Obligations.lean ====
section
/-! DEFINITION. The statements for the provers. Each docstring names the rule or the section of spec/ it rests on; where
the spec marks a sentence as its own derivation or decision, or where the model chose, the docstring says so. Statements
about all states hold in states that no run reaches, except where `Inv` is a premise. -/

open Sys2Proof Sys2Proof.Machine

/-! ## The command word -/

/-- 30_encoding.md section 1. Decoding and encoding agree in both directions, for every device index that the 4-bit
field holds: no bit of a command word is dropped and no word of an instruction has a second meaning. -/
def Obligations.DecodeAndEncodeAgree : Prop :=
  ∀ (w : BitVec 7) (i : Instr), decode w = .ok i ↔ encode i = w

/-- 30_encoding.md section 2. The decoder rejects exactly the words whose selector is 5, 6 or 7, by name. -/
def Obligations.ReservedSelectorsAreRejected : Prop :=
  ∀ w : BitVec 7, (5 ≤ (opField w).toNat → decode w = .error (.reservedSelector (opField w))) ∧
    ((opField w).toNat < 5 → ∃ i, decode w = .ok i)

/-- 30_encoding.md section 5: a few words written out from the opcode map. A sanity statement. -/
def Obligations.MapWordsDecode : Prop :=
  decode 0b0000000#7 = .ok (.light 0) ∧ decode 0b0011001#7 = .ok (.power 9) ∧ decode 0b0100011#7 = .ok (.plus 3) ∧
    decode 0b0110000#7 = .ok (.minus 0) ∧ decode 0b1001001#7 = .ok (.novy 9) ∧
    decode 0b0001010#7 = .ok (.light 10) ∧ decode 0b1010000#7 = .error (.reservedSelector 5)

/-- 30_encoding.md section 2: of the 128 words 78 give NotFound under any CFG, and the other 50 resolve to a frame under
a table whose entries all have their lengths. -/
def Obligations.FiftyWordsAreValid : Prop :=
  ∀ c : Cfg, (allWords.filter fun w => resolveWord c w == .error .notFound).length = 78 ∧
    (soundLengths c = true → (allWords.filter fun w => (resolveWord c w).toBool).length = 50)

/-! ## The Code Table and the Frame Encoder -/

/-- R81: an index of 0 to 9 gives its entry, whatever its length; any other gives NotFound. -/
def Obligations.DeviceLookup : Prop :=
  ∀ (c : Cfg) (dev : BitVec 4),
    (∀ i : Fin 10, dev.toNat = i.val → lookupDevice c dev = .ok (memRead c .devRom i)) ∧
      (10 ≤ dev.toNat → lookupDevice c dev = .error .notFound)

/-- R82: the selectors 0 to 4 give the entries of LIGHT, POWER, PLUS, MINUS, NOVY; any other gives NotFound. -/
def Obligations.CommandLookup : Prop :=
  ∀ (c : Cfg) (op : BitVec 3),
    (op.toNat = 0 → lookupCommand c op = .ok (.light, c.lightCode)) ∧
    (op.toNat = 1 → lookupCommand c op = .ok (.power, c.powerCode)) ∧
    (op.toNat = 2 → lookupCommand c op = .ok (.plus, c.plusCode)) ∧
    (op.toNat = 3 → lookupCommand c op = .ok (.minus, c.minusCode)) ∧
    (op.toNat = 4 → lookupCommand c op = .ok (.novy, c.novyCode)) ∧
    (5 ≤ op.toNat → lookupCommand c op = .error .notFound)

/-- 60_exceptions.md section 1: a command word is answered NotFound exactly when its device index is 10 to 15 or its
selector is 5 to 7, whatever the table holds. -/
def Obligations.NotFoundExactly : Prop :=
  ∀ (c : Cfg) (op : BitVec 3) (dev : BitVec 4),
    resolve c op dev = .error .notFound ↔ (10 ≤ dev.toNat ∨ 5 ≤ op.toNat)

/-- 60_exceptions.md section 1: InvalidLength exactly when both lookups succeed and one of the three strings does not
have its expected length. -/
def Obligations.InvalidLengthExactly : Prop :=
  ∀ (c : Cfg) (o : Op) (i : Fin 10) (dev : BitVec 4), dev.toNat = i.val →
    (resolve c (selector o) dev = .error .invalidLength ↔
      ((memRead c .prefixRom ()).length ≠ 4 ∨ (memRead c .devRom i).length ≠ 4 ∨
        (memRead c .cmdRom o).length ≠ clen o))

/-- R90: the three length checks, and the concatenation when they pass. `CLEN` is 10 for LIGHT and POWER, 4 for PLUS,
MINUS and NOVY. -/
def Obligations.FrameEncoding : Prop :=
  clen .light = 10 ∧ clen .power = 10 ∧ clen .plus = 4 ∧ clen .minus = 4 ∧ clen .novy = 4 ∧
  ∀ (o : Op) (pfx deviceCode commandCode : BitString),
    encodeFrame o pfx deviceCode commandCode =
      (if pfx.length = 4 ∧ deviceCode.length = 4 ∧ commandCode.length = clen o then
        .ok (pfx ++ deviceCode ++ commandCode) else .error .invalidLength)

/-- R91, R95: the fields stand at the fixed offsets 0, 4 and 8 of the frame, and splitting there recovers them. -/
def Obligations.FieldsAtFixedOffsets : Prop :=
  ∀ (o : Op) (pfx deviceCode commandCode frame : BitString),
    encodeFrame o pfx deviceCode commandCode = .ok frame →
      frame.length = 8 + clen o ∧ frame.take 4 = pfx ∧ (frame.drop 4).take 4 = deviceCode ∧ frame.drop 8 = commandCode

/-- 44_command_dispatch.md section 2 (POWER, corner cases): under the source's entries the LIGHT and the POWER frame of
one device differ at frame index 16 and nowhere else. -/
def Obligations.LightAndPowerDifferAtIndexSixteen : Prop :=
  ∀ (c : Cfg) (dev : BitVec 4) (light power : BitString), sourceEntries c = true →
    resolve c (selector .light) dev = .ok light → resolve c (selector .power) dev = .ok power →
      ∀ i : Nat, light[i]? ≠ power[i]? ↔ i = 16

/-! ## The Pulse Timing Engine -/

/-- 42_pulse_timing_engine.md section 2 (the spec marks the count as derived): `N_REPEAT * (L*K + 1)` pulses. -/
def Obligations.PulseCount : Prop :=
  ∀ (c : Cfg) (frame : BitString), cfgWf c = true →
    (toPulses c frame).length = c.nRepeat * (frame.length * c.k + 1)

/-- 42_pulse_timing_engine.md section 2: the total duration is `N_REPEAT * (z*dur(0) + o*dur(1) + T_GAP)`, with `z` zero
bits and `o` one bits, under any CFG. -/
def Obligations.TotalDuration : Prop :=
  ∀ (c : Cfg) (frame : BitString),
    totalDur (toPulses c frame) =
      c.nRepeat * (frame.count false * symDur c false + frame.count true * symDur c true + c.tGap)

/-- 42_pulse_timing_engine.md section 1: there is a gap pulse after every repetition, the last one included, and the
list ends with one. -/
def Obligations.GapAfterEveryRepetition : Prop :=
  ∀ (c : Cfg) (frame : BitString), cfgWf c = true →
    (∀ r, r < c.nRepeat →
      (toPulses c frame)[r * (frame.length * c.k + 1) + frame.length * c.k]? = some ⟨.low, c.tGap⟩) ∧
    (toPulses c frame).getLast? = some ⟨.low, c.tGap⟩

/-- 42_pulse_timing_engine.md section 1: inside a repetition, the pulse `m` of bit `i` is pulse `m` of the symbol of
that bit, index 0 of the frame first. -/
def Obligations.SymbolsInFrameOrder : Prop :=
  ∀ (c : Cfg) (frame : BitString), cfgWf c = true →
    ∀ r i m, r < c.nRepeat → m < c.k → ∀ b, frame[i]? = some b →
      (toPulses c frame)[r * (frame.length * c.k + 1) + i * c.k + m]? = (memRead c .symRom b)[m]?

/-- 42_pulse_timing_engine.md section 3: the waveform holds each pulse's level for exactly its duration, one pulse after
the other with nothing between, and ends with the list. -/
def Obligations.WaveHoldsEachPulse : Prop :=
  ∀ (ps : List Pulse),
    (∀ i p, ps[i]? = some p → ∀ u, startOf ps i ≤ u → u < startOf ps i + p.dur → wave ps u = some p.level) ∧
      ∀ u, wave ps u = none ↔ totalDur ps ≤ u

/-- 10_state.md section 4 (the spec marks the linear index as derived): walking the position is indexing the pulse list.
The pulse at a position in range is the one that `PIDX` numbers, `next` keeps the position in range and adds one to
`PIDX`, and it ends exactly at the last pulse. -/
def Obligations.PositionWalksThePulseList : Prop :=
  ∀ (c : Cfg) (j : Job) (p : Pos), cfgWf c = true → j.Sound c → p.InRange c j →
    pulseAt c j p = (toPulses c j.frame)[pulseIndex c j p]? ∧
    pulseIndex c j p < (toPulses c j.frame).length ∧
    (∀ q, nextPos c j p = some q → q.InRange c j ∧ pulseIndex c j q = pulseIndex c j p + 1) ∧
    (nextPos c j p = none ↔ pulseIndex c j p + 1 = (toPulses c j.frame).length)

/-! ## The job as a trace -/

/-- 43_ook_modulator.md section 2: the trace of P pulses, operation by operation. It is `SetPwr(1)`, `Wait(T_SETTLE)`;
then for each pulse in list order its `SetTx(l_i)` and `Wait(d_i)` with nothing between; then `SetTx(LOW)`,
`Wait(T_TRAIL)`, `SetPwr(0)`, and nothing after. So it has P + 3 drive operations, and its waits last `T_SETTLE`, the
pulses' durations and `T_TRAIL`. -/
def Obligations.TraceShape : Prop :=
  ∀ (c : Cfg) (ps : List Pulse),
    (trace c ps)[0]? = some (.setPwr true) ∧ (trace c ps)[1]? = some (.wait c.tSettle) ∧
    (∀ i p, ps[i]? = some p →
      (trace c ps)[2 * i + 2]? = some (.setTx p.level) ∧ (trace c ps)[2 * i + 3]? = some (.wait p.dur)) ∧
    (trace c ps)[2 * ps.length + 2]? = some (.setTx .low) ∧
    (trace c ps)[2 * ps.length + 3]? = some (.wait c.tTrail) ∧
    (trace c ps)[2 * ps.length + 4]? = some (.setPwr false) ∧
    (trace c ps).length = 2 * ps.length + 5 ∧
    ((trace c ps).filter PinOp.isDrive).length = ps.length + 3 ∧
    ((trace c ps).map PinOp.ticks).sum = c.tSettle + totalDur ps + c.tTrail

/-- 43_ook_modulator.md section 2: with every drive operation driven, the whole trace happens and the result is OK. -/
def Obligations.DrivenJobPlaysWholeTrace : Prop :=
  ∀ (c : Cfg) (ps : List Pulse) (answers : Nat → Bool), (∀ j, j < ps.length + 3 → answers j = false) →
    transmit c ps answers = ((trace c ps).map .op, .ok)

/-- 43_ook_modulator.md section 2: when drive operation `j` is the first one answered fault, the job's trace is the part
of the whole trace strictly before it and then the marker, and the result is HardwareFault. -/
def Obligations.FirstFaultCutsTheTrace : Prop :=
  ∀ (c : Cfg) (ps : List Pulse) (answers : Nat → Bool) (j : Nat), j < ps.length + 3 → answers j = true →
    (∀ i, i < j → answers i = false) →
      ∃ before o after, trace c ps = before ++ o :: after ∧ o.isDrive = true ∧
        (before.filter PinOp.isDrive).length = j ∧
        transmit c ps answers = (before.map .op ++ [.fault j], .hardwareFault)

/-! ## Ports and parameters -/

/-- R24 and 10_state.md section 10: the output ports show the registers during the tick. -/
def Obligations.OutputsShowTheRegisters : Prop :=
  ∀ s : State, ((outputs s).busy = true ↔ s.regs.st ≠ .idle) ∧ (outputs s).doneValid = s.regs.doneV ∧
    ((outputs s).txData = true ↔ s.regs.tx = .high) ∧ (outputs s).pwrEn = s.regs.pwr ∧
    (∀ code, s.regs.doneC = some code → (outputs s).doneCode = resultBits code)

/-- 10_state.md section 6: no rule depends on `T_TICK`. -/
def Obligations.RealTickLengthIsUnread : Prop :=
  ∀ (s t : State) (x : Nat), step s = .next t →
    step { s with cfg := { s.cfg with tTick := x } } = .next { t with cfg := { t.cfg with tTick := x } }

/-! ## Reset -/

/-- R35: the registers after reset. -/
def Obligations.ResetRegisters : Prop :=
  State.reset.regs =
    { st := .idle, job := none, pos := none, cnt := none, tx := .low, pwr := false, doneV := false, doneC := none }

/-- 70_reset_and_hazards.md section 1: on a tick with `rst = 1`, whatever the state and the other inputs, the next state
has the reset registers; CFG is not touched and no request is accepted. The clauses on `inputs`, `tick` and `answer`
speak of the model's own fields, its choice in log 1, log 5 and log 6. -/
def Obligations.ResetTick : Prop :=
  ∀ s : State, cfgWf s.cfg = true → s.now.rst = true →
    ∃ t, step s = .next t ∧ t.cfg = s.cfg ∧ t.inputs = s.inputs.tail ∧ t.tick = s.tick + 1 ∧ t.answer = none ∧
      t.regs =
        { st := .idle, job := none, pos := none, cnt := none, tx := .low, pwr := false, doneV := false, doneC := none }

/-- 10_state.md section 9 (the spec marks the invariant as derived), and log 3 for the record CFG of the reset state:
reset meets the invariant under a well-formed CFG. -/
def Obligations.ResetMeetsInvariant : Prop := State.reset.Inv ∧ cfgWf State.reset.cfg = true

/-! ## The whole machine -/

/-- 10_state.md section 9 (the spec marks the invariant as derived): every step keeps the invariant, from every state
that meets it, under any inputs and any CFG. -/
def Obligations.StepKeepsInvariant : Prop := ∀ s t : State, s.Inv → step s = .next t → t.Inv

/-- 10_state.md sections 3, 4 and 9: from a state that meets the invariant, under a well-formed CFG, the machine always
goes on: no valueless register is read, no count is exhausted, every position names a pulse. -/
def Obligations.MachineNeverStops : Prop :=
  ∀ s : State, s.Inv → cfgWf s.cfg = true → ∃ t, step s = .next t

/-- 60_exceptions.md section 9: under the invariant the transceiver is powered exactly while a job runs, and the
transmit line is HIGH only while it is powered and Transmitting. -/
def Obligations.NeverKeyedUnpowered : Prop :=
  ∀ s : State, s.Inv →
    (s.regs.pwr = true ↔ busy s.regs = true) ∧ (s.regs.tx = .high → s.regs.pwr = true ∧ s.regs.st = .transmitting)

/-- 20_memory.md sections 1 and 5, R44: no step writes a ROM space, and CFG is the same record after every step. -/
def Obligations.RomsAreNeverWritten : Prop :=
  ∀ s t : State, step s = .next t →
    t.cfg = s.cfg ∧ ∀ (sp : Space) (i : sp.Index), memRead t.cfg sp i = memRead s.cfg sp i

/-- 10_state.md section 3: while a job is in flight its registers FRAME, FLEN and REP_N never change; a step out of a
busy state either keeps them or ends the job. -/
def Obligations.JobIsImmutable : Prop :=
  ∀ s t : State, step s = .next t → busy s.regs = true → busy t.regs = true → t.regs.job = s.regs.job

/-- 10_state.md section 2: without reset the driver state stays, or moves along the cycle, or falls back to Idle because
the drive operation of the tick was answered fault. -/
def Obligations.DriverEdges : Prop :=
  ∀ s t : State, s.now.rst = false → step s = .next t →
    t.regs.st = s.regs.st ∨
    (s.now.pinFault = false ∧
      ((s.regs.st = .idle ∧ t.regs.st = .poweringUp) ∨ (s.regs.st = .poweringUp ∧ t.regs.st = .transmitting) ∨
        (s.regs.st = .transmitting ∧ t.regs.st = .poweringDown) ∨ (s.regs.st = .poweringDown ∧ t.regs.st = .idle))) ∨
    (s.now.pinFault = true ∧ s.regs.st ≠ .idle ∧ t.regs.st = .idle)

/-- 10_state.md section 5: DONE_V is set exactly by the step that ends a job, with the job's result in DONE_C: that of a
busy tick that comes to Idle, or of an accepted request whose first drive operation faults. On every other tick, and on
no such tick, both are cleared. -/
def Obligations.ReportEndsAJob : Prop :=
  ∀ s t : State, s.now.rst = false → step s = .next t →
    (t.regs.doneV = true ∧ t.regs.st = .idle ∧
      t.regs.doneC = some (if s.now.pinFault then .hardwareFault else .ok) ∧
      (busy s.regs = true ∨ (∃ frame, tickRequest s = some frame) ∧ s.now.pinFault = true)) ∨
    (t.regs.doneV = false ∧ t.regs.doneC = none ∧
      (busy s.regs = true → busy t.regs = true) ∧
      ∀ frame, tickRequest s = some frame → s.now.pinFault = false)

/-- 43_ook_modulator.md section 3: `pin_fault` is looked at only on a tick whose step performs a drive operation. -/
def Obligations.PinFaultIgnoredWithoutDrive : Prop :=
  ∀ (c : Cfg) (r : Regs) (req : Option BitString) (b b' : Bool), performsDrive r req = false →
    engineTick c r req b = engineTick c r req b'

/-- 43_ook_modulator.md section 3 (the spec marks the sentence on exact durations as derived): outside Idle a tick with
`CNT = n + 2` makes it `n + 1` and does nothing else to the job, whatever `pin_fault` and whatever the request port
carries. `endTick` also moves `inputs`, `tick` and `answer`, the model's own fields and its choice (log 1, log 5, log
6). -/
def Obligations.CountingDown : Prop :=
  ∀ (s : State) (n : Nat), cfgWf s.cfg = true → s.now.rst = false → s.regs.st ≠ .idle → s.regs.cnt = some (n + 2) →
    step s = .next (s.endTick { s.regs with cnt := some (n + 1), doneV := false, doneC := none } (tickAnswer s))

/-- 43_ook_modulator.md section 3 (R127): the step in Idle. Without an accepted request the block stays in Idle and
drops the report; an accepted request performs `SetPwr(1)`, which faults or is driven. It holds on a report tick too.
`endTick` also moves `inputs`, `tick` and `answer`, the model's own fields and its choice (log 1, log 5, log 6). -/
def Obligations.IdleStep : Prop :=
  ∀ s : State, cfgWf s.cfg = true → s.now.rst = false → s.regs.st = .idle →
    (tickRequest s = none →
      step s = .next (s.endTick { s.regs with doneV := false, doneC := none } (tickAnswer s))) ∧
    (∀ frame, tickRequest s = some frame → s.now.pinFault = true →
      step s = .next (s.endTick
        { st := .idle, job := none, pos := none, cnt := none, tx := .low, pwr := false, doneV := true,
          doneC := some .hardwareFault } (some .ok))) ∧
    (∀ frame, tickRequest s = some frame → s.now.pinFault = false →
      step s = .next (s.endTick
        { st := .poweringUp, job := some ⟨frame, frame.length, s.cfg.nRepeat⟩, pos := s.regs.pos,
          cnt := some s.cfg.tSettle, tx := .low, pwr := true, doneV := false, doneC := none } (some .ok)))

/-- 43_ook_modulator.md section 3 (R129): the settle delay ends with the drive operation of pulse 0.
`endTick` also moves `inputs`, `tick` and `answer`, the model's own fields and its choice (log 1, log 5, log 6). -/
def Obligations.SettleDelayEnds : Prop :=
  ∀ (s : State) (j : Job) (pulse : Pulse), cfgWf s.cfg = true → s.now.rst = false → s.regs.st = .poweringUp →
    s.regs.cnt = some 1 → s.regs.job = some j → pulseAt s.cfg j ⟨0, 0, 0⟩ = some pulse →
      step s = .next (s.endTick
        (if s.now.pinFault then faultedRegs
        else { s.regs with
          st := .transmitting, pos := some ⟨0, 0, 0⟩, tx := pulse.level, cnt := some pulse.dur, doneV := false,
          doneC := none }) (tickAnswer s))

/-- 43_ook_modulator.md section 3 (R130): the current pulse ends with the drive operation of the next pulse, or with the
final `SetTx(LOW)`. `endTick` also moves `inputs`, `tick` and `answer`, the model's own fields and its choice (log 1,
log 5, log 6). -/
def Obligations.PulseEnds : Prop :=
  ∀ (s : State) (j : Job) (p : Pos), cfgWf s.cfg = true → s.now.rst = false → s.regs.st = .transmitting →
    s.regs.cnt = some 1 → s.regs.job = some j → s.regs.pos = some p →
      (∀ q pulse, nextPos s.cfg j p = some q → pulseAt s.cfg j q = some pulse →
        step s = .next (s.endTick
          (if s.now.pinFault then faultedRegs
          else { s.regs with
            pos := some q, tx := pulse.level, cnt := some pulse.dur, doneV := false, doneC := none })
          (tickAnswer s))) ∧
      (nextPos s.cfg j p = none →
        step s = .next (s.endTick
          (if s.now.pinFault then faultedRegs
          else { s.regs with
            st := .poweringDown, pos := none, tx := .low, cnt := some s.cfg.tTrail, doneV := false, doneC := none })
          (tickAnswer s)))

/-- 43_ook_modulator.md section 3 (R131): the trailing margin ends with `SetPwr(0)`, and completion is reported.
`endTick` also moves `inputs`, `tick` and `answer`, the model's own fields and its choice (log 1, log 5, log 6). -/
def Obligations.TrailingMarginEnds : Prop :=
  ∀ s : State, cfgWf s.cfg = true → s.now.rst = false → s.regs.st = .poweringDown → s.regs.cnt = some 1 →
    step s = .next (s.endTick
      (if s.now.pinFault then faultedRegs
      else { st := .idle, job := none, pos := none, cnt := none, tx := .low, pwr := false, doneV := true,
             doneC := some .ok }) (tickAnswer s))

/-- 43_ook_modulator.md sections 4 and 5 (the spec marks the timeline as derived): a job accepted on this tick whose
drive operations are driven shows the rows of the timeline tick for tick: PoweringUp for `T_SETTLE` ticks, then
`tx_data` is `wave(pulses)`, then PoweringDown for `T_TRAIL` ticks, then the report OK after `T_JOB` busy ticks. The
request port may carry anything meanwhile, and `pin_fault` anything on ticks without a drive operation. -/
def Obligations.JobPlaysItsTimeline : Prop :=
  ∀ (s : State) (frame : BitString) (n : Nat), cfgWf s.cfg = true → s.Accepts frame → s.NoResetFor n →
    1 ≤ n → n ≤ jobTicks s.cfg frame + 1 →
    (∀ j, driveOffset s.cfg frame j < n → s.driveAnswer frame j = false) →
      ∃ t, runTicks n s = .next t ∧ t.regs.view = timelineRow s.cfg frame n ∧
        (n = jobTicks s.cfg frame + 1 →
          t.regs = { st := .idle, job := none, pos := none, cnt := none, tx := .low, pwr := false, doneV := true,
                     doneC := some .ok })

/-- 43_ook_modulator.md sections 2 and 4 (the spec marks the timeline as derived): if drive operation `j` is the first
one answered fault, then on the tick after it was sampled the block is in Idle and reports HardwareFault, with the
commanded outputs cleared (decision D14 of the spec). -/
def Obligations.FaultEndsTheJob : Prop :=
  ∀ (s : State) (frame : BitString) (j : Nat), cfgWf s.cfg = true → s.Accepts frame →
    j < (toPulses s.cfg frame).length + 3 → s.NoResetFor (driveOffset s.cfg frame j + 1) →
    s.driveAnswer frame j = true → (∀ i, i < j → s.driveAnswer frame i = false) →
      ∃ t, runTicks (driveOffset s.cfg frame j + 1) s = .next t ∧ t.regs = faultedRegs

/-- 44_command_dispatch.md section 1, `dispatch` as one transaction: without a reset meanwhile, the first report after
acceptance comes after at most `T_JOB + 1` ticks, all ticks before it are busy, and it carries the result that
`transmit` gives for the job's pulses and the environment's answers. -/
def Obligations.DispatchIsOneTransaction : Prop :=
  ∀ (s : State) (frame : BitString), cfgWf s.cfg = true → s.Accepts frame →
    s.NoResetFor (jobTicks s.cfg frame + 1) →
      ∃ u t, 1 ≤ u ∧ u ≤ jobTicks s.cfg frame + 1 ∧ runTicks u s = .next t ∧ t.regs.doneV = true ∧
        t.regs.doneC = some (transmit s.cfg (toPulses s.cfg frame) (s.driveAnswer frame)).2 ∧
        ∀ k, 1 ≤ k → k < u → ∃ v, runTicks k s = .next v ∧ busy v.regs = true ∧ v.regs.doneV = false

/-! ## Requests -/

/-- 43_ook_modulator.md section 3 and 44_command_dispatch.md section 1: a tick without reset on which the request port
carries a word that decodes to an instruction runs exactly that instruction; a word that is no command runs as one;
without a request it is a quiet tick. Nothing else surrounds `exec`. -/
def Obligations.StepRunsTheDecodedInstruction : Prop :=
  ∀ s : State, s.now.rst = false →
    (s.now.reqValid = true → ∀ i, decode s.now.cmd = .ok i → step s = exec i s) ∧
    (s.now.reqValid = true → ∀ e, decode s.now.cmd = .error e → step s = unknownCommand s.now.cmd s) ∧
    (s.now.reqValid = false → step s = quietTick s)

/-- 44_command_dispatch.md section 1 and 60_exceptions.md section 3: the answer on `req_code` to a word on the request
port, in the order NotFound, InvalidLength, Busy, OK; and a request answered anything but OK leaves the next state
exactly what it would have been without the request, whatever the driver state. The answer is recorded in the model's
own field `answer` (log 6). -/
def Obligations.RequestAnswers : Prop :=
  ∀ s : State, s.now.rst = false → s.now.reqValid = true →
    let op := opField s.now.cmd
    let dev := devField s.now.cmd
    (10 ≤ dev.toNat ∨ 5 ≤ op.toNat →
      reqCodePort s = 1 ∧ step s = withAnswer (some .notFound) (quietTick s)) ∧
    (∀ (o : Op) (i : Fin 10), op = selector o → dev.toNat = i.val →
      (s.cfg.prefixCode.length ≠ 4 ∨ (s.cfg.devCode.get i).length ≠ 4 ∨ (memRead s.cfg .cmdRom o).length ≠ clen o →
        reqCodePort s = 2 ∧ step s = withAnswer (some .invalidLength) (quietTick s)) ∧
      (s.cfg.prefixCode.length = 4 ∧ (s.cfg.devCode.get i).length = 4 ∧
          (memRead s.cfg .cmdRom o).length = clen o →
        (s.regs.st ≠ .idle → reqCodePort s = 3 ∧ step s = withAnswer (some .busy) (quietTick s)) ∧
        (s.regs.st = .idle → reqCodePort s = 0 ∧
          tickRequest s = some (s.cfg.prefixCode ++ s.cfg.devCode.get i ++ memRead s.cfg .cmdRom o))))

/-- R142 at the level of the instruction: a command presented while the driver is not Idle leaves the job in flight
unaffected, whatever it is answered. The recorded answer is the model's own field (log 6). -/
def Obligations.BusyLeavesTheJobAlone : Prop :=
  ∀ (i : Instr) (s : State), busy s.regs = true →
    exec i s = withAnswer (some (answerOf s.cfg s.regs (selector i.op) i.dev)) (quietTick s)

/-- R161: the numbers of the results; `req_code` never carries 4; under the invariant `done_code` carries 0 or 4
whenever `done_valid` is 1. -/
def Obligations.ResultCodeNumbers : Prop :=
  resultBits .ok = 0 ∧ resultBits .notFound = 1 ∧ resultBits .invalidLength = 2 ∧ resultBits .busy = 3 ∧
  resultBits .hardwareFault = 4 ∧
  (∀ s : State, s.now.rst = false → (outputs s).reqCode.toNat ≤ 3) ∧
  (∀ s : State, s.Inv → (outputs s).doneValid = true → (outputs s).doneCode = 0 ∨ (outputs s).doneCode = 4)

/-- 44_command_dispatch.md section 2: LIGHT completes. Presented in Idle with a device index of 0 to 9 whose code has 4
bits, and driven, it starts the job with the 18-bit frame `0101`, DEV_CODE[dev], `0111010001`. Here and in the four
statements after it `endTick` also moves `inputs`, `tick` and `answer`, the model's own fields and its choice (log 1,
log 5, log 6). -/
def Obligations.LightStartsItsJob : Prop :=
  ∀ (s : State) (dev : BitVec 4) (i : Fin 10), cfgWf s.cfg = true → sourceEntries s.cfg = true → s.regs.st = .idle →
    dev.toNat = i.val → (s.cfg.devCode.get i).length = 4 → s.now.pinFault = false →
      exec (.light dev) s = .next (s.endTick
        (startedRegs s (bits [0, 1, 0, 1] ++ s.cfg.devCode.get i ++ bits [0, 1, 1, 1, 0, 1, 0, 0, 0, 1]) 18) (some .ok))

/-- 44_command_dispatch.md section 2: POWER completes, with the 18-bit frame `0101`, DEV_CODE[dev], `0111010011`. -/
def Obligations.PowerStartsItsJob : Prop :=
  ∀ (s : State) (dev : BitVec 4) (i : Fin 10), cfgWf s.cfg = true → sourceEntries s.cfg = true → s.regs.st = .idle →
    dev.toNat = i.val → (s.cfg.devCode.get i).length = 4 → s.now.pinFault = false →
      exec (.power dev) s = .next (s.endTick
        (startedRegs s (bits [0, 1, 0, 1] ++ s.cfg.devCode.get i ++ bits [0, 1, 1, 1, 0, 1, 0, 0, 1, 1]) 18) (some .ok))

/-- 44_command_dispatch.md section 2: PLUS completes, with the 12-bit frame `0101`, DEV_CODE[dev], CMD_CODE[PLUS], when
that code has 4 bits. -/
def Obligations.PlusStartsItsJob : Prop :=
  ∀ (s : State) (dev : BitVec 4) (i : Fin 10), cfgWf s.cfg = true → sourceEntries s.cfg = true → s.regs.st = .idle →
    dev.toNat = i.val → (s.cfg.devCode.get i).length = 4 → s.cfg.plusCode.length = 4 → s.now.pinFault = false →
      exec (.plus dev) s = .next (s.endTick
        (startedRegs s (bits [0, 1, 0, 1] ++ s.cfg.devCode.get i ++ s.cfg.plusCode) 12) (some .ok))

/-- 44_command_dispatch.md section 2: MINUS completes, with the 12-bit frame `0101`, DEV_CODE[dev], CMD_CODE[MINUS],
when that code has 4 bits. -/
def Obligations.MinusStartsItsJob : Prop :=
  ∀ (s : State) (dev : BitVec 4) (i : Fin 10), cfgWf s.cfg = true → sourceEntries s.cfg = true → s.regs.st = .idle →
    dev.toNat = i.val → (s.cfg.devCode.get i).length = 4 → s.cfg.minusCode.length = 4 → s.now.pinFault = false →
      exec (.minus dev) s = .next (s.endTick
        (startedRegs s (bits [0, 1, 0, 1] ++ s.cfg.devCode.get i ++ s.cfg.minusCode) 12) (some .ok))

/-- 44_command_dispatch.md section 2: NOVY completes, with the 12-bit frame `0101`, DEV_CODE[dev], CMD_CODE[NOVY], when
that code has 4 bits. -/
def Obligations.NovyStartsItsJob : Prop :=
  ∀ (s : State) (dev : BitVec 4) (i : Fin 10), cfgWf s.cfg = true → sourceEntries s.cfg = true → s.regs.st = .idle →
    dev.toNat = i.val → (s.cfg.devCode.get i).length = 4 → s.cfg.novyCode.length = 4 → s.now.pinFault = false →
      exec (.novy dev) s = .next (s.endTick
        (startedRegs s (bits [0, 1, 0, 1] ++ s.cfg.devCode.get i ++ s.cfg.novyCode) 12) (some .ok))

/-- 44_command_dispatch.md section 1: the frame of LIGHT, POWER, PLUS, MINUS and NOVY. Whenever one of them gives a next
state: CFG and every entry of every ROM are unchanged, the inputs and the tick counter move on by one, the answer is
recorded; and in Idle, unless it is answered OK, every register but the report is unchanged; and in Idle, if it is
answered OK and driven, the position is unchanged. (Busy ticks: see BusyLeavesTheJobAlone.) The clauses on `inputs`,
`tick` and `answer` speak of the model's own fields, its choice in log 1, log 5 and log 6, and do not come from the
spec; that CFG is a field at all is log 2. -/
def Obligations.CommandFrames : Prop :=
  ∀ (i : Instr) (s t : State), exec i s = .next t →
    t.cfg = s.cfg ∧ (∀ (sp : Space) (ix : sp.Index), memRead t.cfg sp ix = memRead s.cfg sp ix) ∧
    t.inputs = s.inputs.tail ∧ t.tick = s.tick + 1 ∧
    t.answer = some (answerOf s.cfg s.regs (selector i.op) i.dev) ∧
    (s.regs.st = .idle → t.answer ≠ some .ok →
      t.regs.st = s.regs.st ∧ t.regs.job = s.regs.job ∧ t.regs.pos = s.regs.pos ∧ t.regs.cnt = s.regs.cnt ∧
        t.regs.tx = s.regs.tx ∧ t.regs.pwr = s.regs.pwr) ∧
    (s.regs.st = .idle → t.answer = some .ok → s.now.pinFault = false → t.regs.pos = s.regs.pos)

/-- 44_command_dispatch.md section 3: commands keep no memory. In two Idle states that meet the invariant, whatever ran
before, one command word under one CFG and one answer of the environment leaves the same registers. -/
def Obligations.CommandsKeepNoMemory : Prop :=
  ∀ (i : Instr) (s u t v : State), s.Inv → u.Inv → s.regs.st = .idle → u.regs.st = .idle → s.cfg = u.cfg →
    s.now.pinFault = u.now.pinFault → exec i s = .next t → exec i u = .next v → t.regs = v.regs

/-! ## Stops -/

/-- 10_state.md section 6: under a CFG that fails WF(CFG) the model refuses to run, on every tick, a reset tick
included. -/
def Obligations.IllFormedCfgIsRefused : Prop :=
  ∀ s : State, cfgWf s.cfg = false →
    step s = .refused .illFormedCfg ∧ ∀ i : Instr, exec i s = .refused .illFormedCfg

/-- 00_scope.md section 6: reading a register that holds no value is a model fault, never a value. Log 4 and log 9 name
the model's choice of the fault's names. -/
def Obligations.ValuelessReadsFault : Prop :=
  ∀ s : State, cfgWf s.cfg = true → s.now.rst = false →
    (s.regs.st ≠ .idle → s.regs.cnt = none → step s = .fault (.noValue .cnt)) ∧
    (s.regs.st = .poweringUp → s.regs.cnt = some 1 → s.regs.job = none → step s = .fault (.noValue .frame)) ∧
    (s.regs.st = .transmitting → s.regs.cnt = some 1 → s.regs.job = none → step s = .fault (.noValue .frame)) ∧
    (s.regs.st = .transmitting → s.regs.cnt = some 1 → s.regs.job ≠ none → s.regs.pos = none →
      step s = .fault (.noValue .pos))
end

