-- ==== Sys2Proof/Laws/CodeTable.lean ====
section
/-! SUPPORT. What WF(CFG) gives, and what the lookups and the encoder answer. -/

namespace Sys2Proof.Machine

/-- WF(CFG) taken apart (R31). -/
structure CfgFacts (c : Cfg) : Prop where
  prefix_length : c.prefixCode.length = 4
  k_pos : 1 ≤ c.k
  sym_length : ∀ b : Bit, (memRead c .symRom b).length = c.k
  sym_dur : ∀ (b : Bit) (p : Pulse), p ∈ memRead c .symRom b → 1 ≤ p.dur
  gap_pos : 1 ≤ c.tGap
  repeat_pos : 1 ≤ c.nRepeat
  settle_pos : 1 ≤ c.tSettle
  trail_pos : 1 ≤ c.tTrail

theorem CfgFacts.of_wf {c : Cfg} (h : cfgWf c = true) : CfgFacts c := by
  simp only [cfgWf, durationsPositive, Bool.and_eq_true, beq_iff_eq, decide_eq_true_eq, List.all_eq_true] at h
  obtain ⟨⟨⟨⟨⟨⟨⟨⟨⟨h1, h2⟩, h3⟩, h4⟩, h5⟩, h6⟩, h7⟩, h8⟩, h9⟩, h10⟩ := h
  refine ⟨h1, h2, ?_, ?_, h7, h8, h9, h10⟩
  · intro b; cases b <;> assumption
  · intro b p hp
    cases b
    · exact h5 p hp
    · exact h6 p hp

/-- The record of the reset state is well formed, whatever its free values are. -/
theorem platformCfg_wf : cfgWf platformCfg = true := by decide

/-- The record of the reset state holds what the source fixes. -/
theorem platformCfg_sourceEntries : sourceEntries platformCfg = true := by decide

/-- An in-range index reads its entry (R81). -/
theorem lookupDevice_ok {c : Cfg} {dev : BitVec 4} (h : dev.toNat ≤ 9) :
    lookupDevice c dev = .ok (memRead c .devRom ⟨dev.toNat, Nat.lt_succ_of_le h⟩) := by
  simp [lookupDevice, h]

/-- An index of 10 to 15 is not found (R81). -/
theorem lookupDevice_error {c : Cfg} {dev : BitVec 4} (h : ¬ dev.toNat ≤ 9) :
    lookupDevice c dev = .error .notFound := by
  simp [lookupDevice, h]

/-- A command's own selector finds its entry (R82). -/
@[simp] theorem lookupCommand_selector (c : Cfg) (o : Op) :
    lookupCommand c (selector o) = .ok (o, memRead c .cmdRom o) := by
  cases o <;> rfl

/-- All that a frame the encoder answers can be (R90, R92). -/
theorem encodeFrame_ok {o : Op} {pfx d k f : BitString} (h : encodeFrame o pfx d k = .ok f) :
    pfx.length = 4 ∧ d.length = 4 ∧ k.length = clen o ∧ f = pfx ++ d ++ k := by
  unfold encodeFrame at h
  split at h
  · cases h
  · split at h
    · cases h
    · split at h
      · cases h
      · cases h
        simp_all

/-- A resolved command word: its operands were found, and the frame is their concatenation (R141). -/
theorem resolve_ok {c : Cfg} {op : BitVec 3} {dev : BitVec 4} {f : BitString} (h : resolve c op dev = .ok f) :
    ∃ (d : BitString) (o : Op), lookupDevice c dev = .ok d ∧ opOf op = some o ∧
      encodeFrame o c.prefixCode d (memRead c .cmdRom o) = .ok f := by
  unfold resolve at h
  split at h
  · cases h
  · rename_i d hd
    unfold lookupCommand at h
    split at h
    · cases h
    · rename_i o k hk
      split at hk
      · rename_i o' ho
        cases hk
        exact ⟨d, o, hd, ho, h⟩
      · cases hk

/-- The length of a frame is 12 or 18 (R13). -/
theorem resolve_length {c : Cfg} {op : BitVec 3} {dev : BitVec 4} {f : BitString} (h : resolve c op dev = .ok f) :
    f.length = 12 ∨ f.length = 18 := by
  obtain ⟨d, o, -, -, he⟩ := resolve_ok h
  obtain ⟨h1, h2, h3, rfl⟩ := encodeFrame_ok he
  cases o <;> simp [clen] at h3 <;> simp [h1, h2, h3]

end Sys2Proof.Machine
end

