-- ==== Sys2Proof/Laws/State.lean ====
section
/-! SUPPORT. One lemma for each field under each update of the state, true by unfolding, so that no later proof unfolds
a record update. -/

namespace Sys2Proof.Machine

section Registers
variable (r : Regs)

@[simp] theorem setPwr_st (b : Bool) : (r.setPwr b).st = r.st := rfl
@[simp] theorem setPwr_job (b : Bool) : (r.setPwr b).job = r.job := rfl
@[simp] theorem setPwr_pos (b : Bool) : (r.setPwr b).pos = r.pos := rfl
@[simp] theorem setPwr_cnt (b : Bool) : (r.setPwr b).cnt = r.cnt := rfl
@[simp] theorem setPwr_tx (b : Bool) : (r.setPwr b).tx = r.tx := rfl
@[simp] theorem setPwr_pwr (b : Bool) : (r.setPwr b).pwr = b := rfl
@[simp] theorem setPwr_doneV (b : Bool) : (r.setPwr b).doneV = r.doneV := rfl
@[simp] theorem setPwr_doneC (b : Bool) : (r.setPwr b).doneC = r.doneC := rfl

@[simp] theorem setTx_st (l : Level) : (r.setTx l).st = r.st := rfl
@[simp] theorem setTx_job (l : Level) : (r.setTx l).job = r.job := rfl
@[simp] theorem setTx_pos (l : Level) : (r.setTx l).pos = r.pos := rfl
@[simp] theorem setTx_cnt (l : Level) : (r.setTx l).cnt = r.cnt := rfl
@[simp] theorem setTx_tx (l : Level) : (r.setTx l).tx = l := rfl
@[simp] theorem setTx_pwr (l : Level) : (r.setTx l).pwr = r.pwr := rfl
@[simp] theorem setTx_doneV (l : Level) : (r.setTx l).doneV = r.doneV := rfl
@[simp] theorem setTx_doneC (l : Level) : (r.setTx l).doneC = r.doneC := rfl

@[simp] theorem dropReport_st : (r.dropReport).st = r.st := rfl
@[simp] theorem dropReport_job : (r.dropReport).job = r.job := rfl
@[simp] theorem dropReport_pos : (r.dropReport).pos = r.pos := rfl
@[simp] theorem dropReport_cnt : (r.dropReport).cnt = r.cnt := rfl
@[simp] theorem dropReport_tx : (r.dropReport).tx = r.tx := rfl
@[simp] theorem dropReport_pwr : (r.dropReport).pwr = r.pwr := rfl
@[simp] theorem dropReport_doneV : (r.dropReport).doneV = false := rfl
@[simp] theorem dropReport_doneC : (r.dropReport).doneC = none := rfl

@[simp] theorem countDown_st (n : Nat) : (r.countDown n).st = r.st := rfl
@[simp] theorem countDown_job (n : Nat) : (r.countDown n).job = r.job := rfl
@[simp] theorem countDown_pos (n : Nat) : (r.countDown n).pos = r.pos := rfl
@[simp] theorem countDown_cnt (n : Nat) : (r.countDown n).cnt = some n := rfl
@[simp] theorem countDown_tx (n : Nat) : (r.countDown n).tx = r.tx := rfl
@[simp] theorem countDown_pwr (n : Nat) : (r.countDown n).pwr = r.pwr := rfl
@[simp] theorem countDown_doneV (n : Nat) : (r.countDown n).doneV = false := rfl
@[simp] theorem countDown_doneC (n : Nat) : (r.countDown n).doneC = none := rfl

@[simp] theorem powerUp_st (c : Cfg) (frame : BitString) : (Regs.powerUp c r frame).st = .poweringUp := rfl
@[simp] theorem powerUp_job (c : Cfg) (frame : BitString) : (Regs.powerUp c r frame).job = some ⟨frame, frame.length, c.nRepeat⟩ := rfl
@[simp] theorem powerUp_pos (c : Cfg) (frame : BitString) : (Regs.powerUp c r frame).pos = r.pos := rfl
@[simp] theorem powerUp_cnt (c : Cfg) (frame : BitString) : (Regs.powerUp c r frame).cnt = some c.tSettle := rfl
@[simp] theorem powerUp_tx (c : Cfg) (frame : BitString) : (Regs.powerUp c r frame).tx = .low := rfl
@[simp] theorem powerUp_pwr (c : Cfg) (frame : BitString) : (Regs.powerUp c r frame).pwr = true := rfl
@[simp] theorem powerUp_doneV (c : Cfg) (frame : BitString) : (Regs.powerUp c r frame).doneV = false := rfl
@[simp] theorem powerUp_doneC (c : Cfg) (frame : BitString) : (Regs.powerUp c r frame).doneC = none := rfl

@[simp] theorem play_st (p : Pos) (pulse : Pulse) : (r.play p pulse).st = .transmitting := rfl
@[simp] theorem play_job (p : Pos) (pulse : Pulse) : (r.play p pulse).job = r.job := rfl
@[simp] theorem play_pos (p : Pos) (pulse : Pulse) : (r.play p pulse).pos = some p := rfl
@[simp] theorem play_cnt (p : Pos) (pulse : Pulse) : (r.play p pulse).cnt = some pulse.dur := rfl
@[simp] theorem play_tx (p : Pos) (pulse : Pulse) : (r.play p pulse).tx = pulse.level := rfl
@[simp] theorem play_pwr (p : Pos) (pulse : Pulse) : (r.play p pulse).pwr = r.pwr := rfl
@[simp] theorem play_doneV (p : Pos) (pulse : Pulse) : (r.play p pulse).doneV = false := rfl
@[simp] theorem play_doneC (p : Pos) (pulse : Pulse) : (r.play p pulse).doneC = none := rfl

@[simp] theorem powerDown_st (c : Cfg) : (Regs.powerDown c r).st = .poweringDown := rfl
@[simp] theorem powerDown_job (c : Cfg) : (Regs.powerDown c r).job = r.job := rfl
@[simp] theorem powerDown_pos (c : Cfg) : (Regs.powerDown c r).pos = none := rfl
@[simp] theorem powerDown_cnt (c : Cfg) : (Regs.powerDown c r).cnt = some c.tTrail := rfl
@[simp] theorem powerDown_tx (c : Cfg) : (Regs.powerDown c r).tx = .low := rfl
@[simp] theorem powerDown_pwr (c : Cfg) : (Regs.powerDown c r).pwr = r.pwr := rfl
@[simp] theorem powerDown_doneV (c : Cfg) : (Regs.powerDown c r).doneV = false := rfl
@[simp] theorem powerDown_doneC (c : Cfg) : (Regs.powerDown c r).doneC = none := rfl

end Registers

section Idle
variable (report : Option ResultCode)

@[simp] theorem idleRegs_st : (idleRegs report).st = .idle := rfl
@[simp] theorem idleRegs_job : (idleRegs report).job = none := rfl
@[simp] theorem idleRegs_pos : (idleRegs report).pos = none := rfl
@[simp] theorem idleRegs_cnt : (idleRegs report).cnt = none := rfl
@[simp] theorem idleRegs_tx : (idleRegs report).tx = .low := rfl
@[simp] theorem idleRegs_pwr : (idleRegs report).pwr = false := rfl
@[simp] theorem idleRegs_doneV : (idleRegs report).doneV = report.isSome := rfl
@[simp] theorem idleRegs_doneC : (idleRegs report).doneC = report := rfl

end Idle

/-- The reset registers are those of Idle without a report (R186). -/
theorem reset_eq_idleRegs : Regs.reset = idleRegs none := rfl

section Ticks
variable (s : State) (r : Regs) (a : Option ResultCode)

@[simp] theorem endTick_regs : (s.endTick r a).regs = r := rfl
@[simp] theorem endTick_cfg : (s.endTick r a).cfg = s.cfg := rfl
@[simp] theorem endTick_inputs : (s.endTick r a).inputs = s.inputs.tail := rfl
@[simp] theorem endTick_tick : (s.endTick r a).tick = s.tick + 1 := rfl
@[simp] theorem endTick_answer : (s.endTick r a).answer = a := rfl

/-- The inputs move on by one tick: what was `k + 1` ticks away is now `k` ticks away. -/
theorem endTick_inputAt (k : Nat) : (s.endTick r a).inputAt k = s.inputAt (k + 1) := by
  simp [State.inputAt, Nat.add_comm 1 k, Nat.add_assoc]

section Fetch
variable (nbits w : Nat)

@[simp] theorem withFetchWord_regs : (s.withFetchWord nbits w).regs = s.regs := rfl
@[simp] theorem withFetchWord_cfg : (s.withFetchWord nbits w).cfg = s.cfg := rfl
@[simp] theorem withFetchWord_tick : (s.withFetchWord nbits w).tick = s.tick := rfl
@[simp] theorem withFetchWord_answer : (s.withFetchWord nbits w).answer = s.answer := rfl

/-- The word stands on the request port of this very tick. -/
theorem withFetchWord_now :
    (s.withFetchWord nbits w).now =
      (s.inputs.head?.getD Inputs.quiet).present (BitVec.ofNat 7 (w % 2 ^ nbits)) := rfl

end Fetch

end Ticks

end Sys2Proof.Machine
end

