-- ==== Sys2Proof/Laws/Driver.lean ====
section
/-! SUPPORT. What a tick can do, said once: one lemma for each shared operation of the driver, and one for the step. -/

namespace Sys2Proof.Machine

/-- All that a drive operation can do (R117, R124). -/
theorem drive_cases (b : Bool) (driven : Regs) :
    (b = true ∧ drive b driven = takeFault) ∨ (b = false ∧ drive b driven = driven) := by
  cases b <;> simp [drive]

/-- All that counting down can answer (R128). -/
theorem countdown_ok {r r' : Regs} {last : Except Fault Regs} (h : countdown r last = .ok r') :
    (r.cnt = some 1 ∧ last = .ok r') ∨ ∃ n, r.cnt = some (n + 2) ∧ r' = r.countDown (n + 1) := by
  unfold countdown at h
  split at h
  · cases h
  · cases h
  · exact .inl ⟨‹_›, h⟩
  · exact .inr ⟨_, ‹_›, by cases h; rfl⟩

/-- All that starting a pulse can answer (R129, R130). -/
theorem startPulse_ok {c : Cfg} {r r' : Regs} {j : Job} {p : Pos} {b : Bool} (h : startPulse c r j p b = .ok r') :
    ∃ pulse, pulseAt c j p = some pulse ∧ r' = drive b (r.play p pulse) := by
  unfold startPulse at h
  split at h
  · exact ⟨_, ‹_›, by cases h; rfl⟩
  · cases h

/-- All that the end of the settle delay can answer (R129). -/
theorem settleEnds_ok {c : Cfg} {r r' : Regs} {b : Bool} (h : settleEnds c r b = .ok r') :
    ∃ j pulse, r.job = some j ∧ pulseAt c j firstPos = some pulse ∧ r' = drive b (r.play firstPos pulse) := by
  unfold settleEnds at h
  split at h
  · rename_i j hj
    obtain ⟨pulse, hp, rfl⟩ := startPulse_ok h
    exact ⟨j, pulse, hj, hp, rfl⟩
  · cases h

/-- All that the end of a pulse can answer (R130). -/
theorem pulseEnds_ok {c : Cfg} {r r' : Regs} {b : Bool} (h : pulseEnds c r b = .ok r') :
    ∃ j p, r.job = some j ∧ r.pos = some p ∧
      ((nextPos c j p = none ∧ r' = drive b (r.powerDown c)) ∨
        ∃ q pulse, nextPos c j p = some q ∧ pulseAt c j q = some pulse ∧ r' = drive b (r.play q pulse)) := by
  unfold pulseEnds at h
  split at h
  · rename_i j p hj hp
    refine ⟨j, p, hj, hp, ?_⟩
    split at h
    · rename_i q hq
      obtain ⟨pulse, hpulse, rfl⟩ := startPulse_ok h
      exact .inr ⟨q, pulse, hq, hpulse, rfl⟩
    · exact .inl ⟨‹_›, by cases h; rfl⟩
  · cases h
  · cases h

/-- All that the engine's step can answer, by driver state (R127 to R131). -/
theorem engineTick_ok {c : Cfg} {r r' : Regs} {req : Option BitString} {b : Bool}
    (h : engineTick c r req b = .ok r') :
    (r.st = .idle ∧ req = none ∧ r' = r.dropReport) ∨
    (∃ f, r.st = .idle ∧ req = some f ∧ r' = drive b (r.powerUp c f)) ∨
    (∃ n, r.st ≠ .idle ∧ r.cnt = some (n + 2) ∧ r' = r.countDown (n + 1)) ∨
    (r.st = .poweringUp ∧ r.cnt = some 1 ∧ settleEnds c r b = .ok r') ∨
    (r.st = .transmitting ∧ r.cnt = some 1 ∧ pulseEnds c r b = .ok r') ∨
    (r.st = .poweringDown ∧ r.cnt = some 1 ∧ r' = drive b completed) := by
  unfold engineTick at h
  split at h
  · rename_i hst
    cases req with
    | none => exact .inl ⟨hst, rfl, by cases h; rfl⟩
    | some f => exact .inr (.inl ⟨f, hst, rfl, by cases h; rfl⟩)
  · rename_i hst
    rcases countdown_ok h with ⟨hc, hl⟩ | ⟨n, hc, rfl⟩
    · exact .inr (.inr (.inr (.inl ⟨hst, hc, hl⟩)))
    · exact .inr (.inr (.inl ⟨n, by simp [hst], hc, rfl⟩))
  · rename_i hst
    rcases countdown_ok h with ⟨hc, hl⟩ | ⟨n, hc, rfl⟩
    · exact .inr (.inr (.inr (.inr (.inl ⟨hst, hc, hl⟩))))
    · exact .inr (.inr (.inl ⟨n, by simp [hst], hc, rfl⟩))
  · rename_i hst
    rcases countdown_ok h with ⟨hc, hl⟩ | ⟨n, hc, rfl⟩
    · exact .inr (.inr (.inr (.inr (.inr ⟨hst, hc, by cases hl; rfl⟩))))
    · exact .inr (.inr (.inl ⟨n, by simp [hst], hc, rfl⟩))

/-- All that a tick can answer as a next state: CFG is well formed, and the tick itself answers it (R31). -/
theorem underWf_next {s t : State} {tick : Host.Outcome State Fault Refusal} (h : s.underWf tick = .next t) :
    cfgWf s.cfg = true ∧ tick = .next t := by
  unfold State.underWf at h
  split at h
  · exact ⟨‹_›, h⟩
  · cases h

/-- Under a well-formed CFG a tick is what its rule says. -/
theorem underWf_of_wf {s : State} (tick : Host.Outcome State Fault Refusal) (h : cfgWf s.cfg = true) :
    s.underWf tick = tick := if_pos h

/-- Under a CFG that fails WF(CFG) every tick is refused (R31). -/
theorem underWf_of_not_wf {s : State} (tick : Host.Outcome State Fault Refusal) (h : cfgWf s.cfg = false) :
    s.underWf tick = .refused .illFormedCfg := if_neg (by simp [h])

/-- All that a tick without reset can answer as a next state (R126, R31). -/
theorem runTick_next {s t : State} {req : Option BitString} {a : Option ResultCode} (h : runTick s req a = .next t) :
    cfgWf s.cfg = true ∧ ∃ r, engineTick s.cfg s.regs req s.now.pinFault = .ok r ∧ t = s.endTick r a := by
  obtain ⟨hwf, h⟩ := underWf_next h
  refine ⟨hwf, ?_⟩
  split at h
  · rename_i r hr
    exact ⟨r, hr, by cases h; rfl⟩
  · cases h

/-- Under a well-formed CFG, a tick whose engine step answers goes on (R126). -/
theorem runTick_eq {s : State} {req : Option BitString} {a : Option ResultCode} {r : Regs}
    (hwf : cfgWf s.cfg = true) (h : engineTick s.cfg s.regs req s.now.pinFault = .ok r) :
    runTick s req a = .next (s.endTick r a) := by
  simp [runTick, underWf_of_wf _ hwf, h]

/-- Every instruction's meaning is the tick of its request (R141). -/
theorem exec_eq (i : Instr) (s : State) : exec i s = requestTick (selector i.op) i.dev s := by
  cases i <;> rfl

/-- The fields of the command word that a decoded instruction came from. -/
theorem decode_ok {w : BitVec 7} {i : Instr} (h : decode w = .ok i) :
    opOf (opField w) = some i.op ∧ devField w = i.dev := by
  unfold decode at h
  split at h
  · rename_i o ho
    cases h
    cases o <;> exact ⟨ho, rfl⟩
  · cases h

/-- A selector that stands for a command is that command's selector (R61). -/
theorem selector_of_opOf {op : BitVec 3} {o : Op} (h : opOf op = some o) : op = selector o := by
  unfold opOf at h
  split at h <;> cases h <;> apply BitVec.eq_of_toNat_eq <;> simpa [selector] using ‹_›

/-- The step, said once (R126): reset, or one tick with what the request port carries. -/
theorem step_eq (s : State) :
    step s = if s.now.rst then resetTick s else runTick s (tickRequest s) (tickAnswer s) := by
  unfold step
  split
  · rfl
  · rename_i hrst
    unfold fetch
    split
    · rename_i i hv
      split at hv
      · split at hv <;> cases hv
      · simp [quietTick, tickRequest, tickAnswer, *]
    · rename_i i hv
      split at hv
      · rename_i hreq
        split at hv
        · rename_i instr hdec
          cases hv
          obtain ⟨hop, hdev⟩ := decode_ok hdec
          rw [exec_eq, ← selector_of_opOf hop, ← hdev]
          simp [requestTick, tickRequest, tickAnswer, hrst, hreq]
        · cases hv
      · cases hv
    · rename_i w hv
      split at hv
      · rename_i hreq
        split at hv
        · cases hv
        · cases hv
          simp [unknownCommand, requestTick, tickRequest, tickAnswer, hrst, hreq]
      · cases hv

/-- All that a step can answer as a next state (R126, R31). -/
theorem step_next {s t : State} (h : step s = .next t) :
    cfgWf s.cfg = true ∧
    ((s.now.rst = true ∧ t = s.endTick Regs.reset none) ∨
      (s.now.rst = false ∧
        ∃ r, engineTick s.cfg s.regs (tickRequest s) s.now.pinFault = .ok r ∧ t = s.endTick r (tickAnswer s))) := by
  rw [step_eq] at h
  split at h
  · rename_i hrst
    obtain ⟨hwf, h⟩ := underWf_next h
    exact ⟨hwf, .inl ⟨hrst, by cases h; rfl⟩⟩
  · rename_i hrst
    obtain ⟨hwf, r, hr, rfl⟩ := runTick_next h
    exact ⟨hwf, .inr ⟨by simpa using hrst, r, hr, rfl⟩⟩

/-- A request is accepted only in Idle, with the frame that its word resolves to (R141, R143). -/
theorem accepted_some {c : Cfg} {r : Regs} {op : BitVec 3} {dev : BitVec 4} {f : BitString}
    (h : accepted c r op dev = some f) : r.st = .idle ∧ resolve c op dev = .ok f := by
  unfold accepted at h
  split at h
  · cases h
  · rename_i f' hf
    split at h
    · cases h
    · rename_i hb
      cases h
      exact ⟨by simpa [busy] using hb, hf⟩

end Sys2Proof.Machine
end

