-- ==== Sys2Proof/Laws/PerInstr.lean ====
section
/-! SUPPORT. Statements about every instruction as syntax, one lemma for each constructor. -/

namespace Sys2Proof.Laws.EncodeFields

/-- The encoder puts the selector into `cmd[6:4]` and the device index into `cmd[3:0]` (R60, R61). -/
def Statement (i : Instr) : Prop := opField (encode i) = selector i.op ∧ devField (encode i) = i.dev

/-- The fields of a word put together from a selector and a device index. -/
theorem fields_append (op : BitVec 3) (dev : BitVec 4) : opField (op ++ dev) = op ∧ devField (op ++ dev) = dev := by
  constructor
  · apply BitVec.eq_of_getLsbD_eq
    intro i hi
    simp only [opField, BitVec.getLsbD_extractLsb', BitVec.getLsbD_append]
    simp [hi, show ¬ 4 + i < 4 by omega]
  · apply BitVec.eq_of_getLsbD_eq
    intro i hi
    simp only [devField, BitVec.getLsbD_extractLsb', Nat.zero_add, hi, decide_true, Bool.true_and,
      BitVec.getLsbD_append, if_true]

theorem light (dev : BitVec 4) : Statement (.light dev) := fields_append _ dev
theorem power (dev : BitVec 4) : Statement (.power dev) := fields_append _ dev
theorem plus (dev : BitVec 4) : Statement (.plus dev) := fields_append _ dev
theorem minus (dev : BitVec 4) : Statement (.minus dev) := fields_append _ dev
theorem novy (dev : BitVec 4) : Statement (.novy dev) := fields_append _ dev

end Sys2Proof.Laws.EncodeFields
end

