-- ==== Sys2Proof/Tests/Slice0.lean ====
section
/-! SUPPORT. The model's own tests, each on one step or one pure function with its expected result from
spec/95_test_vectors.md, and one witness for each statement that has hypotheses. -/

namespace Sys2Proof.Tests

open Sys2Proof.Machine

/-! ### Configurations (95_test_vectors.md section 0; synthetic) -/

/-- TESTCFG. -/
def testCfg : Cfg where
  prefixCode := bits [0, 1, 0, 1]
  devCode := #v[bits [0, 1, 0, 1], bits [1, 0, 0, 1], bits [0, 0, 0, 1], bits [1, 1, 1, 0], bits [0, 1, 1, 0],
    bits [1, 0, 1, 0], bits [0, 0, 1, 0], bits [1, 1, 0, 0], bits [0, 1, 0, 0], bits [1, 0, 0, 0]]
  lightCode := bits [0, 1, 1, 1, 0, 1, 0, 0, 0, 1]
  powerCode := bits [0, 1, 1, 1, 0, 1, 0, 0, 1, 1]
  plusCode := bits [0, 1, 0, 1]
  minusCode := bits [0, 1, 1, 0]
  novyCode := bits [0, 1, 0, 0]
  k := 2
  sym0 := [⟨.high, 1⟩, ⟨.low, 2⟩]
  sym1 := [⟨.high, 2⟩, ⟨.low, 1⟩]
  tGap := 5
  nRepeat := 2
  tSettle := 3
  tTrail := 2
  tTick := 1

/-- TESTCFG-K1. -/
def testCfgK1 : Cfg := { testCfg with k := 1, sym0 := [⟨.high, 2⟩], sym1 := [⟨.low, 3⟩] }

/-- BADCFG: two wrong lengths. -/
def badCfg : Cfg :=
  { testCfg with
    plusCode := bits [0, 1, 0, 1, 1]
    devCode := testCfg.devCode.set 3 (bits [1, 1, 1]) }

/-- The shortest job the rules allow, for the witnesses: one pulse a bit, every duration one tick, one repetition. -/
def tinyCfg : Cfg :=
  { testCfg with
    k := 1, sym0 := [⟨.low, 1⟩], sym1 := [⟨.high, 1⟩], tGap := 1, nRepeat := 1, tSettle := 1, tTrail := 1 }

/-- The inputs of a tick that presents `w`. -/
def request (w : BitVec 7) (pinFault : Bool) : Inputs := ⟨false, true, w, pinFault⟩

/-- The inputs of a tick that presents nothing. -/
def silence (pinFault : Bool) : Inputs := ⟨false, false, 0, pinFault⟩

/-- A state with these registers, this CFG and these inputs. -/
def at' (r : Regs) (c : Cfg) (ins : List Inputs) : State := ⟨r, c, ins, 0, none⟩

/-- The registers of the job `POWER 9` under TESTCFG, Transmitting at `p` with `n` ticks left. -/
def playing (p : Pos) (n : Nat) (l : Level) : Regs :=
  { st := .transmitting, job := some ⟨bits [0, 1, 0, 1, 1, 0, 0, 0, 0, 1, 1, 1, 0, 1, 0, 0, 1, 1], 18, 2⟩, pos := some p,
    cnt := some n, tx := l, pwr := true, doneV := false, doneC := none }

/-- The same job in PoweringUp. -/
def settling (n : Nat) : Regs := { playing ⟨0, 0, 0⟩ n .low with st := .poweringUp, pos := none }

/-- The same job in PoweringDown. -/
def trailing (n : Nat) : Regs := { playing ⟨0, 0, 0⟩ n .low with st := .poweringDown, pos := none }

/-- The registers that a step leaves, `none` where it stops. -/
def regsOf (o : Host.Outcome State Fault Refusal) : Option Regs :=
  match o with
  | .next t => some t.regs
  | _ => none

/-- The state that a step leaves, `none` where it stops. -/
def stateOf (o : Host.Outcome State Fault Refusal) : Option State :=
  match o with
  | .next t => some t
  | _ => none

/-- The answer that a step records, `none` where it stops. -/
def answerIn (o : Host.Outcome State Fault Refusal) : Option (Option ResultCode) :=
  match o with
  | .next t => some t.answer
  | _ => none

/-! ### The checks of WellFormed -/

theorem test_wf_accepts_dev9 : (Instr.novy 9).wf = true := by decide
theorem test_wf_refuses_dev10 : (Instr.light 10).wf = false := by decide

/-! ### Decoding, each word written out from 30_encoding.md R71 and 95_test_vectors.md section 2.5 -/

theorem test_decode_light : decode 0b0000000#7 = .ok (.light 0) := by decide
theorem test_decode_power : decode 0b0011001#7 = .ok (.power 9) := by decide
theorem test_decode_plus : decode 0b0101010#7 = .ok (.plus 10) := by decide
theorem test_decode_minus : decode 0b0110111#7 = .ok (.minus 7) := by decide
theorem test_decode_novy : decode 0b1001111#7 = .ok (.novy 15) := by decide
theorem test_decode_bad5 : decode 0b1010011#7 = .error (.reservedSelector 5) := by decide
theorem test_decode_bad7 : decode 0b1111111#7 = .error (.reservedSelector 7) := by decide
theorem test_encode_power9 : encode (.power 9) = 0b0011001#7 := by decide
theorem test_table_word : decodeTableWord 8 0x20 = some (.plus 0) := by decide
theorem test_table_word_reserved : decodeTableWord 8 0x50 = none := by decide

/-! ### Lookups and frames (V21, V23, V31 to V38) -/

theorem test_lookup_device_9 : lookupDevice testCfg 9 = .ok (bits [1, 0, 0, 0]) := by decide
theorem test_lookup_device_10 : lookupDevice testCfg 10 = .error .notFound := by decide
theorem test_frame_light0 :
    resolve testCfg 0 0 = .ok (bits [0, 1, 0, 1, 0, 1, 0, 1, 0, 1, 1, 1, 0, 1, 0, 0, 0, 1]) := by decide
theorem test_frame_power9 :
    resolve testCfg 1 9 = .ok (bits [0, 1, 0, 1, 1, 0, 0, 0, 0, 1, 1, 1, 0, 1, 0, 0, 1, 1]) := by decide
theorem test_frame_plus9 : resolve testCfg 2 9 = .ok (bits [0, 1, 0, 1, 1, 0, 0, 0, 0, 1, 0, 1]) := by decide
theorem test_frame_minus0 : resolve testCfg 3 0 = .ok (bits [0, 1, 0, 1, 0, 1, 0, 1, 0, 1, 1, 0]) := by decide
theorem test_frame_novy0 : resolve testCfg 4 0 = .ok (bits [0, 1, 0, 1, 0, 1, 0, 1, 0, 1, 0, 0]) := by decide
theorem test_encode_light_4bit_code :
    encodeFrame .light (bits [0, 1, 0, 1]) (bits [0, 1, 0, 1]) (bits [0, 1, 0, 1]) = .error .invalidLength := by decide
theorem test_encode_plus_10bit_code :
    encodeFrame .plus (bits [0, 1, 0, 1]) (bits [0, 1, 0, 1]) (bits [0, 1, 1, 1, 0, 1, 0, 0, 0, 1]) =
      .error .invalidLength := by decide

/-! ### Pulses (V42, V45, V49) and traces (V50, V53, V55) -/

theorem test_light0_pulses :
    (toPulses testCfg (bits [0, 1, 0, 1, 0, 1, 0, 1, 0, 1, 1, 1, 0, 1, 0, 0, 0, 1])).length = 74 ∧
    totalDur (toPulses testCfg (bits [0, 1, 0, 1, 0, 1, 0, 1, 0, 1, 1, 1, 0, 1, 0, 0, 0, 1])) = 118 := by decide
theorem test_novy0_k1_duration :
    totalDur (toPulses testCfgK1 (bits [0, 1, 0, 1, 0, 1, 0, 1, 0, 1, 0, 0])) = 68 := by decide
theorem test_plus9_wave :
    ((List.range 41).map fun u =>
      (wave (repetition testCfg (bits [0, 1, 0, 1, 1, 0, 0, 0, 0, 1, 0, 1])) u).map levelBit) =
    (bits [1, 0, 0, 1, 1, 0, 1, 0, 0, 1, 1, 0, 1, 1, 0, 1, 0, 0, 1, 0, 0, 1, 0, 0, 1, 0, 0, 1, 1, 0, 1, 0, 0, 1, 1, 0, 0,
      0, 0, 0, 0]).map some := by decide

/-- The pulse list of V50 to V55. -/
def threePulses : List Pulse := [⟨.high, 1⟩, ⟨.low, 2⟩, ⟨.low, 5⟩]

theorem test_trace_V50 :
    transmit testCfg threePulses (fun _ => false) =
      ([.op (.setPwr true), .op (.wait 3), .op (.setTx .high), .op (.wait 1), .op (.setTx .low), .op (.wait 2),
        .op (.setTx .low), .op (.wait 5), .op (.setTx .low), .op (.wait 2), .op (.setPwr false)], .ok) := by decide
theorem test_trace_V53 :
    transmit testCfg threePulses (fun j => j == 3) =
      ([.op (.setPwr true), .op (.wait 3), .op (.setTx .high), .op (.wait 1), .op (.setTx .low), .op (.wait 2),
        .fault 3], .hardwareFault) := by decide

/-! ### Commands, one step each (P1, P2, P3, P5; V60 to V75) -/

theorem test_light_accepted :
    regsOf (exec (.light 0) (at' Regs.reset testCfg [silence false])) =
      some { st := .poweringUp, job := some ⟨bits [0, 1, 0, 1, 0, 1, 0, 1, 0, 1, 1, 1, 0, 1, 0, 0, 0, 1], 18, 2⟩,
             pos := none, cnt := some 3, tx := .low, pwr := true, doneV := false, doneC := none } := by decide
theorem test_light_dev10_not_found :
    answerIn (exec (.light 10) (at' (playing ⟨0, 1, 0⟩ 2 .high) testCfg [silence false])) = some (some .notFound) := by
  decide
theorem test_power_busy :
    stateOf (exec (.power 9) (at' (settling 2) testCfg [silence true])) =
      some ⟨settling 1, testCfg, [], 1, some .busy⟩ := by decide
theorem test_power_faults_on_report_tick :
    regsOf (exec (.power 9) (at' (idleRegs (some .hardwareFault)) testCfg [silence true])) =
      some (idleRegs (some .hardwareFault)) := by decide
theorem test_plus_invalid_length :
    stateOf (exec (.plus 0) (at' Regs.reset badCfg [silence false])) = some ⟨Regs.reset, badCfg, [], 1, some .invalidLength⟩ := by
  decide
theorem test_plus_dev10_bad_table :
    answerIn (exec (.plus 10) (at' Regs.reset badCfg [silence false])) = some (some .notFound) := by decide
theorem test_minus_on_report_tick :
    (regsOf (exec (.minus 0) (at' (idleRegs (some .ok)) testCfg [silence false]))).map Regs.view =
      some ⟨.poweringUp, true, .low, false, none⟩ := by decide
theorem test_novy_frame :
    (regsOf (exec (.novy 0) (at' Regs.reset testCfg [silence false]))).map Regs.job =
      some (some ⟨bits [0, 1, 0, 1, 0, 1, 0, 1, 0, 1, 0, 0], 12, 2⟩) := by decide

/-! ### The driver's ticks (P1, P3, P4; V80 to V83), the ports, the reset state -/

theorem test_first_pulse :
    stateOf (step (at' (settling 1) testCfg [silence false])) =
      some ⟨playing ⟨0, 0, 0⟩ 1 .high, testCfg, [], 1, none⟩ := by decide
theorem test_gap_starts :
    stateOf (step (at' (playing ⟨0, 17, 1⟩ 1 .low) testCfg [silence false])) =
      some ⟨playing ⟨0, 18, 0⟩ 5 .low, testCfg, [], 1, none⟩ := by decide
theorem test_second_repetition :
    stateOf (step (at' (playing ⟨0, 18, 0⟩ 1 .low) testCfg [silence false])) =
      some ⟨playing ⟨1, 0, 0⟩ 1 .high, testCfg, [], 1, none⟩ := by decide
theorem test_last_gap_ends :
    stateOf (step (at' (playing ⟨1, 18, 0⟩ 1 .low) testCfg [silence false])) = some ⟨trailing 2, testCfg, [], 1, none⟩ := by
  decide
theorem test_power_down_faults :
    regsOf (step (at' (trailing 1) testCfg [silence true])) = some (idleRegs (some .hardwareFault)) := by decide
theorem test_completion : regsOf (step (at' (trailing 1) testCfg [silence false])) = some (idleRegs (some .ok)) := by
  decide
theorem test_pin_fault_ignored :
    stateOf (step (at' (settling 3) testCfg [silence true])) = some ⟨settling 2, testCfg, [], 1, none⟩ := by decide
theorem test_reset_drops_job :
    stateOf (step (at' (playing ⟨0, 1, 0⟩ 2 .high) testCfg [⟨true, true, 0b0011001#7, true⟩])) =
      some ⟨Regs.reset, testCfg, [], 1, none⟩ := by decide
/-- R31, U40: a reset tick too is refused under a CFG that fails WF(CFG). -/
theorem test_reset_needs_wf :
    step (at' Regs.reset { testCfg with tGap := 0 } [⟨true, false, 0, false⟩]) = .refused .illFormedCfg := rfl
theorem test_report_lasts_one_tick :
    regsOf (step (at' (idleRegs (some .ok)) testCfg [silence true])) = some Regs.reset := by decide
theorem test_ports_busy :
    outputs (at' { playing ⟨0, 1, 0⟩ 2 .high with doneC := some .ok } testCfg [request 0b0011001#7 false]) =
      ⟨3, true, false, 0, true, true⟩ := by decide
theorem test_reserved_selector_port :
    (outputs (at' Regs.reset badCfg [request 0b1010000#7 false])).reqCode = 1 := by decide

/-- From reset, with its free CFG values, a command word placed on the port runs as the first instruction. -/
theorem test_reset_runs_light :
    (regsOf (step (State.reset.withFetchWord 8 0x00))).map Regs.st = some .poweringUp := by decide
theorem test_reset_runs_plus :
    (regsOf (step (State.reset.withFetchWord 8 0x20))).map Regs.st = some .poweringUp := by decide
theorem test_reset_runs_novy5 :
    (regsOf (step (State.reset.withFetchWord 8 0x45))).map Regs.st = some .poweringUp := by decide

/-! ### Witnesses: for each statement with hypotheses, a case that meets all of them, and one for each clause -/

theorem wf_test : cfgWf testCfg = true := by decide
theorem wf_tiny : cfgWf tinyCfg = true := by decide

theorem witness_reserved_selectors :
    5 ≤ (opField 0b1010000#7).toNat ∧ (opField 0b1001111#7).toNat < 5 := by decide
theorem witness_fifty_words : soundLengths testCfg = true := by decide
theorem witness_device_lookup : (9#4).toNat = (9 : Fin 10).val ∧ 10 ≤ (10#4).toNat := by decide
theorem witness_command_lookup :
    (0#3).toNat = 0 ∧ (1#3).toNat = 1 ∧ (2#3).toNat = 2 ∧ (3#3).toNat = 3 ∧ (4#3).toNat = 4 ∧ 5 ≤ (5#3).toNat := by
  decide
theorem witness_invalid_length :
    (3#4).toNat = (3 : Fin 10).val ∧ resolve badCfg (selector .light) 3 = .error .invalidLength := by decide
theorem witness_fixed_offsets :
    encodeFrame .plus (bits [0, 1, 0, 1]) (bits [1, 0, 0, 0]) (bits [0, 1, 0, 1]) =
      .ok (bits [0, 1, 0, 1, 1, 0, 0, 0, 0, 1, 0, 1]) := by decide
theorem witness_light_power :
    sourceEntries testCfg = true ∧
    resolve testCfg (selector .light) 9 = .ok (bits [0, 1, 0, 1, 1, 0, 0, 0, 0, 1, 1, 1, 0, 1, 0, 0, 0, 1]) ∧
    resolve testCfg (selector .power) 9 = .ok (bits [0, 1, 0, 1, 1, 0, 0, 0, 0, 1, 1, 1, 0, 1, 0, 0, 1, 1]) := by decide

/-- For PulseCount, GapAfterEveryRepetition, SymbolsInFrameOrder: a well-formed CFG, the last repetition, the last pulse of
the last bit. -/
theorem witness_pulses :
    cfgWf testCfg = true ∧ 1 < testCfg.nRepeat ∧ 1 < testCfg.k ∧
      (bits [0, 1, 0, 1, 1, 0, 0, 0, 0, 1, 0, 1])[11]? = some true := by decide

/-- For WaveHoldsEachPulse: the last tick of a pulse, and the first offset past the list. -/
theorem witness_wave :
    threePulses[1]? = some ⟨.low, 2⟩ ∧ startOf threePulses 1 ≤ 2 ∧ 2 < startOf threePulses 1 + 2 ∧
      totalDur threePulses ≤ 8 := by decide

/-- The job `PLUS 0` under `tinyCfg`. -/
def tinyJob : Job := ⟨bits [0, 1, 0, 1, 0, 1, 0, 1, 0, 1, 0, 1], 12, 1⟩

theorem tinyJob_sound : tinyJob.Sound tinyCfg := ⟨.inl rfl, rfl, rfl⟩

/-- For PositionWalksThePulseList: the last bit, and the gap, whose `next` is none. -/
theorem witness_position :
    cfgWf tinyCfg = true ∧ tinyJob.Sound tinyCfg ∧ Pos.InRange tinyCfg tinyJob ⟨0, 11, 0⟩ ∧
      nextPos tinyCfg tinyJob ⟨0, 11, 0⟩ = some ⟨0, 12, 0⟩ ∧ Pos.InRange tinyCfg tinyJob ⟨0, 12, 0⟩ ∧
      nextPos tinyCfg tinyJob ⟨0, 12, 0⟩ = none :=
  ⟨wf_tiny, tinyJob_sound, ⟨by decide, by decide, by decide, by decide⟩, by decide,
    ⟨by decide, by decide, by decide, by decide⟩, by decide⟩

theorem witness_driven_job : ∀ j, j < threePulses.length + 3 → (fun _ : Nat => false) j = false := fun _ _ => rfl

/-- For FirstFaultCutsTheTrace: the last drive operation. -/
theorem witness_first_fault :
    5 < threePulses.length + 3 ∧ (5 == 5) = true ∧ ∀ i, i < 5 → (i == 5) = false := by decide

theorem witness_reset_tick :
    cfgWf testCfg = true ∧ (at' (trailing 1) testCfg [⟨true, true, 0, true⟩]).now.rst = true := by decide

/-- For NeverKeyedUnpowered, StepKeepsInvariant, MachineNeverStops, ResultCodeNumbers: Transmitting with the line HIGH. -/
theorem witness_invariant :
    (at' { st := .transmitting, job := some tinyJob, pos := some ⟨0, 1, 0⟩, cnt := some 1, tx := .high, pwr := true,
           doneV := false, doneC := none } tinyCfg [silence false]).Inv :=
  .transmitting tinyJob ⟨0, 1, 0⟩ ⟨.high, 1⟩ 1 tinyJob_sound ⟨by decide, by decide, by decide, by decide⟩ (by decide)
    (by decide)

/-- For ResultCodeNumbers and CommandsKeepNoMemory: two Idle states that meet the invariant. -/
theorem witness_idle_invariant :
    (at' (idleRegs (some .hardwareFault)) tinyCfg [silence false]).Inv ∧ (at' (idleRegs none) tinyCfg [silence false]).Inv :=
  ⟨.idle _ (.inr (.inr rfl)), .idle _ (.inl rfl)⟩

/-- For CommandsKeepNoMemory: both go on. -/
theorem witness_no_memory :
    regsOf (exec (.plus 0) (at' (idleRegs (some .hardwareFault)) tinyCfg [silence false])) =
      regsOf (exec (.plus 0) (at' (idleRegs none) tinyCfg [silence false])) ∧
    (regsOf (exec (.plus 0) (at' (idleRegs none) tinyCfg [silence false]))).isSome = true := by decide

/-- For RomsAreNeverWritten, JobIsImmutable, DriverEdges, ReportEndsAJob, RealTickLengthIsUnread: a busy step without reset
that goes on busy; a driven edge and a faulted edge are `test_completion` and `test_power_down_faults`. -/
theorem witness_busy_step :
    (at' (settling 1) testCfg [silence false]).now.rst = false ∧ busy (settling 1) = true ∧
    (regsOf (step (at' (settling 1) testCfg [silence false]))).map busy = some true := by decide

/-- For PinFaultIgnoredWithoutDrive: Idle without a request, and a busy tick that counts. -/
theorem witness_no_drive : performsDrive Regs.reset none = false ∧ performsDrive (settling 2) none = false := by decide

theorem witness_counting_down :
    cfgWf testCfg = true ∧ (at' (settling 2) testCfg [silence true]).now.rst = false ∧ (settling 2).st ≠ .idle ∧
      (settling 2).cnt = some (0 + 2) := by decide

/-- For IdleStep: no request, an accepted one answered fault, an accepted one driven. -/
theorem witness_idle_step :
    cfgWf testCfg = true ∧ Regs.reset.st = .idle ∧
    (at' Regs.reset testCfg [silence true]).now.rst = false ∧ tickRequest (at' Regs.reset testCfg [silence true]) = none ∧
    (tickRequest (at' Regs.reset testCfg [request 0 true])).isSome = true ∧
    (at' Regs.reset testCfg [request 0 true]).now.pinFault = true ∧
    (tickRequest (at' Regs.reset testCfg [request 0 false])).isSome = true ∧
    (at' Regs.reset testCfg [request 0 false]).now.pinFault = false := by decide

theorem witness_settle_ends :
    cfgWf testCfg = true ∧ (at' (settling 1) testCfg [silence true]).now.rst = false ∧ (settling 1).st = .poweringUp ∧
      (settling 1).cnt = some 1 ∧ ((settling 1).job.bind fun j => pulseAt testCfg j ⟨0, 0, 0⟩) = some ⟨.high, 1⟩ := by
  decide

/-- For PulseEnds: the last pulse but one, and the last. -/
theorem witness_pulse_ends :
    cfgWf testCfg = true ∧ (at' (playing ⟨1, 17, 1⟩ 1 .low) testCfg [silence true]).now.rst = false ∧
    (playing ⟨1, 17, 1⟩ 1 .low).cnt = some 1 ∧
    ((playing ⟨1, 17, 1⟩ 1 .low).job.bind fun j => nextPos testCfg j ⟨1, 17, 1⟩) = some ⟨1, 18, 0⟩ ∧
    ((playing ⟨1, 17, 1⟩ 1 .low).job.bind fun j => pulseAt testCfg j ⟨1, 18, 0⟩) = some ⟨.low, 5⟩ ∧
    ((playing ⟨1, 18, 0⟩ 1 .low).job.bind fun j => nextPos testCfg j ⟨1, 18, 0⟩) = none := by decide

theorem witness_trail_ends :
    cfgWf testCfg = true ∧ (at' (trailing 1) testCfg [silence true]).now.rst = false ∧ (trailing 1).st = .poweringDown ∧
      (trailing 1).cnt = some 1 := by decide

/-- `PLUS 0` accepted under `tinyCfg`, then `n` quiet ticks, the last one with `pin_fault = b`: the job takes 15 ticks. -/
def tinyRun (n : Nat) (b : Bool) : State :=
  at' Regs.reset tinyCfg (request 0b0100000#7 false :: (List.replicate n (silence false) ++ [silence b]))

theorem tinyRun_accepts (n : Nat) (b : Bool) : (tinyRun n b).Accepts tinyJob.frame :=
  ⟨rfl, rfl, by show resolve tinyCfg (opField 0b0100000#7) (devField 0b0100000#7) = _; decide, rfl⟩

/-- For JobPlaysItsTimeline and DispatchIsOneTransaction: the whole job, up to its report. -/
theorem witness_timeline :
    cfgWf (tinyRun 14 false).cfg = true ∧ (tinyRun 14 false).Accepts tinyJob.frame ∧ (tinyRun 14 false).NoResetFor 16 ∧
      1 ≤ 16 ∧ 16 = jobTicks (tinyRun 14 false).cfg tinyJob.frame + 1 ∧
      ∀ j, driveOffset (tinyRun 14 false).cfg tinyJob.frame j < 16 →
        (tinyRun 14 false).driveAnswer tinyJob.frame j = false := by
  refine ⟨wf_tiny, tinyRun_accepts _ _, by unfold State.NoResetFor; decide, by decide, by decide, fun j hj => ?_⟩
  have h : ∀ k, k < 16 → ((tinyRun 14 false).inputAt k).pinFault = false := by decide
  exact h _ hj

/-- For FaultEndsTheJob: the last drive operation, number 15, on offset 15. -/
theorem witness_fault :
    cfgWf (tinyRun 14 true).cfg = true ∧ (tinyRun 14 true).Accepts tinyJob.frame ∧
      15 < (toPulses (tinyRun 14 true).cfg tinyJob.frame).length + 3 ∧
      (tinyRun 14 true).NoResetFor (driveOffset (tinyRun 14 true).cfg tinyJob.frame 15 + 1) ∧
      (tinyRun 14 true).driveAnswer tinyJob.frame 15 = true ∧
      ∀ i, i < 15 → (tinyRun 14 true).driveAnswer tinyJob.frame i = false :=
  ⟨wf_tiny, tinyRun_accepts _ _, by decide, by unfold State.NoResetFor; decide, by decide, by decide⟩

/-- For StepRunsTheDecodedInstruction: an instruction, a word that is none, no request. -/
theorem witness_step_decodes :
    (at' Regs.reset testCfg [request 0b0011001#7 false]).now.rst = false ∧
    (at' Regs.reset testCfg [request 0b0011001#7 false]).now.reqValid = true ∧
    decode (at' Regs.reset testCfg [request 0b0011001#7 false]).now.cmd = .ok (.power 9) ∧
    decode (at' Regs.reset testCfg [request 0b1010000#7 false]).now.cmd = .error (.reservedSelector 5) ∧
    (at' Regs.reset testCfg [silence false]).now.reqValid = false := by decide

/-- For RequestAnswers: an index and a selector at the edge of NotFound, a wrong length, Busy and OK. -/
theorem witness_request_answers :
    (at' Regs.reset badCfg [request 0b0000011#7 false]).now.reqValid = true ∧
    10 ≤ (devField 0b0001010#7).toNat ∧ 5 ≤ (opField 0b1010000#7).toNat ∧
    opField 0b0000011#7 = selector .light ∧ (devField 0b0000011#7).toNat = (3 : Fin 10).val ∧
    (badCfg.devCode.get 3).length ≠ 4 ∧
    (testCfg.prefixCode.length = 4 ∧ (testCfg.devCode.get 3).length = 4 ∧
      (memRead testCfg .cmdRom .light).length = clen .light) ∧
    (settling 1).st ≠ .idle ∧ Regs.reset.st = .idle := by decide

theorem witness_busy : busy (trailing 1) = true := by decide

/-- For the five statements of completion: TESTCFG, index 9. -/
theorem witness_commands_complete :
    cfgWf testCfg = true ∧ sourceEntries testCfg = true ∧
    (at' Regs.reset testCfg [silence false]).regs.st = .idle ∧ (9#4).toNat = (9 : Fin 10).val ∧
    (testCfg.devCode.get 9).length = 4 ∧ testCfg.plusCode.length = 4 ∧ testCfg.minusCode.length = 4 ∧
    testCfg.novyCode.length = 4 ∧ (at' Regs.reset testCfg [silence false]).now.pinFault = false := by decide

/-- For CommandFrames: a command that goes on, answered OK and driven, and one answered otherwise in Idle. -/
theorem witness_command_frames :
    answerIn (exec (.plus 9) (at' Regs.reset testCfg [silence false])) = some (some .ok) ∧
    answerIn (exec (.plus 10) (at' Regs.reset testCfg [silence false])) = some (some .notFound) := by decide

theorem witness_ill_formed_cfg :
    cfgWf { testCfg with tGap := 0 } = false ∧ cfgWf { testCfg with k := 0, sym0 := [], sym1 := [] } = false := by decide

/-- For ValuelessReadsFault: CNT, FRAME and the position without a value. -/
theorem witness_valueless :
    cfgWf testCfg = true ∧ (at' Regs.reset testCfg [silence false]).now.rst = false ∧
    { settling 1 with cnt := none }.st ≠ .idle ∧ { settling 1 with cnt := none }.cnt = none ∧
    { settling 1 with job := none }.st = .poweringUp ∧ { settling 1 with job := none }.job = none ∧
    { playing ⟨0, 0, 0⟩ 1 .high with job := none }.st = .transmitting ∧
    { playing ⟨0, 0, 0⟩ 1 .high with job := none }.job = none ∧ (playing ⟨0, 0, 0⟩ 1 .high).cnt = some 1 ∧
    { playing ⟨0, 0, 0⟩ 1 .high with pos := none }.st = .transmitting ∧
    { playing ⟨0, 0, 0⟩ 1 .high with pos := none }.job ≠ none ∧
    { playing ⟨0, 0, 0⟩ 1 .high with pos := none }.pos = none := by decide

end Sys2Proof.Tests
end

section
/-! Proofs about the Code Table's two lookups (spec/40_code_table.md R81, R82). -/

namespace Sys2Proof.Machine

/-- A selector is known by its number, so the rule for a command's own selector answers it. -/
theorem lookupCommand_ok {c : Cfg} {op : BitVec 3} {o : Op} (h : op.toNat = (selector o).toNat) :
    lookupCommand c op = .ok (o, memRead c .cmdRom o) := by
  rw [BitVec.eq_of_toNat_eq h, lookupCommand_selector]

/-- The selectors 5, 6 and 7 stand for no command (R64). -/
theorem opOf_eq_none {op : BitVec 3} (h : 5 ≤ op.toNat) : opOf op = none := by
  unfold opOf
  split
  case h_6 => rfl
  all_goals omega

/-- A selector that stands for no command is not found (R82). -/
theorem lookupCommand_error {c : Cfg} {op : BitVec 3} (h : opOf op = none) :
    lookupCommand c op = .error .notFound := by
  simp [lookupCommand, h]

/-- Settles O5: the two branches of the range check on the index. -/
theorem deviceLookup : Obligations.DeviceLookup := by
  intro c dev
  constructor
  · rintro ⟨i, hi⟩ (rfl : dev.toNat = i)
    exact lookupDevice_ok (Nat.le_of_lt_succ hi)
  · intro h
    exact lookupDevice_error (Nat.not_le_of_lt h)

/-- Settles O6: each of the five clauses is `lookupCommand_ok` at its command, the last is `lookupCommand_error`. -/
theorem commandLookup : Obligations.CommandLookup := by
  intro c op
  exact ⟨lookupCommand_ok (o := .light), lookupCommand_ok (o := .power), lookupCommand_ok (o := .plus),
    lookupCommand_ok (o := .minus), lookupCommand_ok (o := .novy), fun h => lookupCommand_error (opOf_eq_none h)⟩

end Sys2Proof.Machine
end

section
/-! Proofs about the Frame Encoder (spec/41_frame_encoder.md R90, R91, R92, R95). -/

namespace Sys2Proof.Machine

/-- Fields of the right lengths pass the three checks (R90). -/
theorem encodeFrame_of_lengths {o : Op} {pfx d k : BitString}
    (h : pfx.length = 4 ∧ d.length = 4 ∧ k.length = clen o) : encodeFrame o pfx d k = .ok (pfx ++ d ++ k) := by
  obtain ⟨hp, hd, hk⟩ := h
  simp [encodeFrame, hp, hd, hk]

/-- One wrong length is enough for the error, whichever check finds it (R90, R92). -/
theorem encodeFrame_of_wrong_length {o : Op} {pfx d k : BitString}
    (h : ¬ (pfx.length = 4 ∧ d.length = 4 ∧ k.length = clen o)) : encodeFrame o pfx d k = .error .invalidLength := by
  cases he : encodeFrame o pfx d k with
  | ok f =>
    obtain ⟨hp, hd, hk, -⟩ := encodeFrame_ok he
    exact absurd ⟨hp, hd, hk⟩ h
  | error e =>
    unfold encodeFrame at he
    split_ifs at he <;> exact he.symm

/-- Settles O10: the lengths of the first two fields are the offsets of the second and the third. -/
theorem fieldsAtFixedOffsets : Obligations.FieldsAtFixedOffsets := by
  intro o pfx d k frame h
  obtain ⟨hp, hd, hk, rfl⟩ := encodeFrame_ok h
  have hpd : (pfx ++ d).length = 8 := by simp [hp, hd]
  refine ⟨?_, ?_, ?_, List.drop_left' hpd⟩
  · rw [List.length_append, hpd, hk]
  · rw [List.append_assoc, List.take_left' hp]
  · rw [List.append_assoc, List.drop_left' hp, List.take_left' hd]

/-- Settles O9: `CLEN` by its table; then either all three lengths are right or one of them is wrong. -/
theorem frameEncoding : Obligations.FrameEncoding := by
  refine ⟨rfl, rfl, rfl, rfl, rfl, fun o pfx d k => ?_⟩
  split
  case isTrue h => exact encodeFrame_of_lengths h
  case isFalse h => exact encodeFrame_of_wrong_length h

end Sys2Proof.Machine
end

section
/-! Proofs about the command word (spec/30_encoding.md R60, R61, R64). -/

namespace Sys2Proof.Machine

/-- A word is its two fields put together (R60). -/
theorem opField_append_devField (w : BitVec 7) : opField w ++ devField w = w := by
  apply BitVec.eq_of_getLsbD_eq
  intro i hi
  simp only [opField, devField, BitVec.getLsbD_append, BitVec.getLsbD_extractLsb', Nat.zero_add]
  by_cases h : i < 4
  · simp [h]
  · simp [h, show i - 4 < 3 by omega, show 4 + (i - 4) = i by omega]

/-- The fields of an encoded instruction, for every constructor (R60, R61). -/
theorem fields_encode (i : Instr) : opField (encode i) = selector i.op ∧ devField (encode i) = i.dev :=
  Laws.EncodeFields.fields_append (selector i.op) i.dev

/-- A command's selector stands for that command (R61). -/
@[simp] theorem opOf_selector (o : Op) : opOf (selector o) = some o := by
  cases o <;> rfl

/-- An instruction is made of its command and its device index. -/
@[simp] theorem instrOf_op_dev (i : Instr) : instrOf i.op i.dev = i := by
  cases i <;> rfl

/-- A selector below 5 is the selector of a command (R61). -/
theorem exists_selector {op : BitVec 3} (h : op.toNat < 5) : ∃ o, op = selector o := by
  rcases (by omega : op.toNat = 0 ∨ op.toNat = 1 ∨ op.toNat = 2 ∨ op.toNat = 3 ∨ op.toNat = 4) with h | h | h | h | h
  · exact ⟨.light, BitVec.eq_of_toNat_eq h⟩
  · exact ⟨.power, BitVec.eq_of_toNat_eq h⟩
  · exact ⟨.plus, BitVec.eq_of_toNat_eq h⟩
  · exact ⟨.minus, BitVec.eq_of_toNat_eq h⟩
  · exact ⟨.novy, BitVec.eq_of_toNat_eq h⟩

/-- A word whose selector is a command's decodes to that command (R64). -/
theorem decode_of_selector {w : BitVec 7} {o : Op} (h : opField w = selector o) :
    decode w = .ok (instrOf o (devField w)) := by
  simp [decode, h]

/-- Settles O1: a decoded word is put together from the fields it was decoded from, and an encoded instruction is
decoded from the fields it was put together from. -/
theorem decodeAndEncodeAgree : Obligations.DecodeAndEncodeAgree := by
  intro w i
  constructor
  · intro h
    obtain ⟨hop, hdev⟩ := decode_ok h
    rw [encode, ← selector_of_opOf hop, ← hdev, opField_append_devField]
  · rintro rfl
    obtain ⟨hop, hdev⟩ := fields_encode i
    rw [decode_of_selector hop, hdev, instrOf_op_dev]

/-- Settles O2: a selector from 5 on stands for no command, one below 5 for some command. -/
theorem reservedSelectorsAreRejected : Obligations.ReservedSelectorsAreRejected := by
  intro w
  constructor
  · intro h
    simp [decode, opOf_eq_none h]
  · intro h
    obtain ⟨o, ho⟩ := exists_selector h
    exact ⟨_, decode_of_selector ho⟩

/-- Settles O3: seven closed words. -/
theorem mapWordsDecode : Obligations.MapWordsDecode := by
  unfold Obligations.MapWordsDecode
  decide

end Sys2Proof.Machine
end

section
/-! Proofs about resolving a command word (spec/44_command_dispatch.md R141, spec/60_exceptions.md section 1). -/

namespace Sys2Proof.Machine

/-- The entry of PREFIX_ROM (R41). -/
@[simp] theorem memRead_prefixRom (c : Cfg) : memRead c .prefixRom () = c.prefixCode := rfl

/-- An entry of DEV_ROM (R41). -/
@[simp] theorem memRead_devRom (c : Cfg) (i : Fin 10) : memRead c .devRom i = c.devCode.get i := rfl

/-- A command with an index of 0 to 9 is resolved by the encoder alone, both lookups found (R81, R82, R141). -/
theorem resolve_selector {c : Cfg} {dev : BitVec 4} {i : Fin 10} (o : Op) (h : dev.toNat = i.val) :
    resolve c (selector o) dev = encodeFrame o c.prefixCode (c.devCode.get i) (memRead c .cmdRom o) := by
  have hdev : lookupDevice c dev = .ok (memRead c .devRom i) := (deviceLookup c dev).1 i h
  simp [resolve, hdev]

/-- An index or a selector out of range is not found, whatever the table holds (R162). -/
theorem resolve_out_of_range {c : Cfg} {op : BitVec 3} {dev : BitVec 4} (h : 10 ≤ dev.toNat ∨ 5 ≤ op.toNat) :
    resolve c op dev = .error .notFound := by
  by_cases hdev : dev.toNat ≤ 9
  · have hop : 5 ≤ op.toNat := by omega
    simp [resolve, lookupDevice_ok hdev, lookupCommand_error (opOf_eq_none hop)]
  · simp [resolve, lookupDevice_error hdev]

/-- Every pair of fields is out of range, or is the selector of a command with the index of an entry. -/
theorem out_of_range_or_entry (op : BitVec 3) (dev : BitVec 4) :
    (10 ≤ dev.toNat ∨ 5 ≤ op.toNat) ∨ ∃ (o : Op) (i : Fin 10), op = selector o ∧ dev.toNat = i.val := by
  by_cases h : 10 ≤ dev.toNat ∨ 5 ≤ op.toNat
  · exact .inl h
  · obtain ⟨o, ho⟩ := exists_selector (op := op) (by omega)
    exact .inr ⟨o, ⟨dev.toNat, by omega⟩, ho, rfl⟩

/-- A command's selector is in range. -/
theorem selector_lt (o : Op) : (selector o).toNat < 5 := by
  cases o <;> decide

/-- The encoder's only error is InvalidLength (R90). -/
theorem encodeFrame_error {o : Op} {pfx d k : BitString} {e : ResultCode} (h : encodeFrame o pfx d k = .error e) :
    e = .invalidLength := by
  rw [frameEncoding.2.2.2.2.2] at h
  split at h
  · cases h
  · cases h
    rfl

/-- A request's errors: NotFound and InvalidLength, never Busy or HardwareFault (R141). -/
theorem resolve_error {c : Cfg} {op : BitVec 3} {dev : BitVec 4} {e : ResultCode} (h : resolve c op dev = .error e) :
    e = .notFound ∨ e = .invalidLength := by
  rcases out_of_range_or_entry op dev with hout | ⟨o, i, rfl, hi⟩
  · rw [resolve_out_of_range hout] at h
    cases h
    exact .inl rfl
  · rw [resolve_selector o hi] at h
    exact .inr (encodeFrame_error h)

/-- Settles O7: out of range the lookups answer NotFound, in range only the encoder's error is left. -/
theorem notFoundExactly : Obligations.NotFoundExactly := by
  intro c op dev
  refine ⟨fun h => ?_, resolve_out_of_range⟩
  rcases out_of_range_or_entry op dev with hout | ⟨o, i, rfl, hi⟩
  · exact hout
  · rw [resolve_selector o hi] at h
    cases encodeFrame_error h

/-- Settles O8: with both lookups found the answer is the encoder's, which is InvalidLength when a length is wrong. -/
theorem invalidLengthExactly : Obligations.InvalidLengthExactly := by
  intro c o i dev hi
  rw [resolve_selector o hi, frameEncoding.2.2.2.2.2]
  split
  case isTrue h =>
    obtain ⟨hp, hd, hk⟩ := h
    simp [hp, hd, hk]
  case isFalse h =>
    simp only [true_iff, memRead_prefixRom, memRead_devRom]
    tauto

/-- Under a table whose entries have their lengths, every command with an index of 0 to 9 passes the checks (R90). -/
theorem lengths_of_soundLengths {c : Cfg} (h : soundLengths c = true) (o : Op) (i : Fin 10) :
    c.prefixCode.length = 4 ∧ (c.devCode.get i).length = 4 ∧ (memRead c .cmdRom o).length = clen o := by
  simp only [soundLengths, Bool.and_eq_true, beq_iff_eq, List.all_eq_true] at h
  obtain ⟨⟨⟨⟨⟨⟨hp, hd⟩, hl⟩, hpo⟩, hpl⟩, hm⟩, hn⟩ := h
  refine ⟨hp, hd _ ?_, ?_⟩
  · simp [Vector.get]
  · cases o <;> assumption

/-- Under such a table a word resolves to a frame exactly when both its fields are in range. -/
theorem resolve_toBool {c : Cfg} (h : soundLengths c = true) (op : BitVec 3) (dev : BitVec 4) :
    (resolve c op dev).toBool = decide (dev.toNat < 10 ∧ op.toNat < 5) := by
  rcases out_of_range_or_entry op dev with hout | ⟨o, i, rfl, hi⟩
  · rw [resolve_out_of_range hout]
    exact (decide_eq_false (by omega)).symm
  · rw [resolve_selector o hi, encodeFrame_of_lengths (lengths_of_soundLengths h o i)]
    exact (decide_eq_true ⟨by omega, selector_lt o⟩).symm

/-- Settles O4: both tests of a word speak of its fields alone, and the words are counted by their fields. -/
theorem fiftyWordsAreValid : Obligations.FiftyWordsAreValid := by
  intro c
  have hnotFound : (fun w => resolveWord c w == .error .notFound) =
      fun w => decide (10 ≤ (devField w).toNat ∨ 5 ≤ (opField w).toNat) := by
    funext w
    rw [Bool.eq_iff_iff, beq_iff_eq, decide_eq_true_iff]
    exact notFoundExactly c _ _
  refine ⟨by rw [hnotFound]; decide, fun h => ?_⟩
  have hframe : (fun w => (resolveWord c w).toBool) =
      fun w => decide ((devField w).toNat < 10 ∧ (opField w).toNat < 5) :=
    funext fun w => resolve_toBool h _ _
  rw [hframe]
  decide

/-- The five entries that the source fixes, taken apart (R80). -/
theorem sourceEntries_iff {c : Cfg} :
    sourceEntries c = true ↔ c.prefixCode = sourcePrefix ∧ c.devCode[0] = sourceDev0 ∧ c.devCode[9] = sourceDev9 ∧
      c.lightCode = sourceLight ∧ c.powerCode = sourcePower := by
  simp [sourceEntries, and_assoc]

/-- The two codes of the source differ at index 8 and nowhere else. -/
theorem sourceLight_ne_sourcePower_iff (k : Nat) : sourceLight[k]? ≠ sourcePower[k]? ↔ k = 8 := by
  by_cases hk : k < 10
  · revert k
    decide
  · have hlight : sourceLight[k]? = none := List.getElem?_eq_none (Nat.le_of_not_lt hk)
    have hpower : sourcePower[k]? = none := List.getElem?_eq_none (Nat.le_of_not_lt hk)
    simp only [hlight, hpower, ne_eq, not_true_eq_false, false_iff]
    omega

/-- Settles O11: both frames begin with the same 8 bits, and the two codes that follow differ at their index 8. -/
theorem lightAndPowerDifferAtIndexSixteen : Obligations.LightAndPowerDifferAtIndexSixteen := by
  intro c dev light power hsrc hlight hpower k
  obtain ⟨-, -, -, hl, hp⟩ := sourceEntries_iff.1 hsrc
  rcases out_of_range_or_entry (selector .light) dev with hout | ⟨-, i, -, hi⟩
  · rw [resolve_out_of_range hout] at hlight
    cases hlight
  · rw [resolve_selector _ hi] at hlight hpower
    obtain ⟨hpfx, hdev, -, rfl⟩ := encodeFrame_ok hlight
    obtain ⟨-, -, -, rfl⟩ := encodeFrame_ok hpower
    have hlen : (c.prefixCode ++ c.devCode.get i).length = 8 := by simp [hpfx, hdev]
    simp only [memRead, hl, hp, List.getElem?_append, hlen]
    by_cases hk : k < 8
    · simp only [hk, if_true, ne_eq, not_true_eq_false, false_iff]
      omega
    · rw [if_neg hk, if_neg hk, sourceLight_ne_sourcePower_iff]
      omega

end Sys2Proof.Machine
end

section
/-! Proofs about the Pulse Timing Engine (spec/42_pulse_timing_engine.md) and the walk of the position
(spec/10_state.md R17 to R21). -/

namespace Sys2Proof.Machine

/-! ### The pulse list, index by index -/

/-- In a list of blocks of one length, entry `m` of block `i` stands at `i * k + m`. -/
theorem getElem?_flatten_of_length {α : Type} {k m : Nat} (hm : m < k) :
    ∀ {L : List (List α)} {i : Nat} {l : List α}, (∀ x ∈ L, x.length = k) → L[i]? = some l →
      L.flatten[i * k + m]? = l[m]?
  | [], _, _, _, hi => by simp at hi
  | x :: L, 0, l, hL, hi => by
    have hx : x.length = k := hL x List.mem_cons_self
    cases hi
    rw [List.flatten_cons, List.getElem?_append_left (by omega), Nat.zero_mul, Nat.zero_add]
  | x :: L, i + 1, l, hL, hi => by
    have hx : x.length = k := hL x List.mem_cons_self
    rw [List.flatten_cons, List.getElem?_append_right (by rw [hx, Nat.succ_mul]; omega), hx,
      show (i + 1) * k + m - k = i * k + m by rw [Nat.succ_mul]; omega]
    exact getElem?_flatten_of_length hm (fun y hy => hL y (List.mem_cons_of_mem x hy)) hi

section WellFormed
variable {c : Cfg} (hwf : cfgWf c = true) (frame : BitString)
include hwf

/-- The symbols of a frame are `K` pulses for each bit (R101). -/
theorem symbols_length : (symbols c frame).length = frame.length * c.k := by
  simp [symbols, (CfgFacts.of_wf hwf).sym_length]

/-- The pulses of one repetition (R103). -/
theorem repetition_length : (repetition c frame).length = frame.length * c.k + 1 := by
  simp [repetition, symbols_length hwf]

/-- The pulses of a whole job (R105). -/
theorem toPulses_length : (toPulses c frame).length = c.nRepeat * (frame.length * c.k + 1) := by
  simp [toPulses, repetition_length hwf]

/-- Pulse `m` of bit `i` stands at `i * K + m` of the symbols (R101). -/
theorem symbols_getElem? {i m : Nat} {b : Bit} (hm : m < c.k) (hb : frame[i]? = some b) :
    (symbols c frame)[i * c.k + m]? = (memRead c .symRom b)[m]? := by
  refine getElem?_flatten_of_length hm ?_ (by simp [hb])
  intro x hx
  obtain ⟨b', -, rfl⟩ := List.mem_map.1 hx
  exact (CfgFacts.of_wf hwf).sym_length b'

/-- The symbols stand at the head of a repetition (R103). -/
theorem repetition_getElem?_symbol {i m : Nat} {b : Bit} (hm : m < c.k) (hb : frame[i]? = some b) :
    (repetition c frame)[i * c.k + m]? = (memRead c .symRom b)[m]? := by
  have hi : i < frame.length := (List.getElem?_eq_some_iff.1 hb).1
  have hlt : i * c.k + m < frame.length * c.k := by
    calc i * c.k + m < (i + 1) * c.k := by rw [Nat.succ_mul]; omega
      _ ≤ frame.length * c.k := Nat.mul_le_mul_right _ hi
  rw [repetition, List.getElem?_append_left (by rw [symbols_length hwf]; exact hlt), symbols_getElem? hwf frame hm hb]

/-- The gap pulse ends a repetition (R103). -/
theorem repetition_getElem?_gap : (repetition c frame)[frame.length * c.k]? = some (gapPulse c) := by
  rw [repetition, ← symbols_length hwf, List.getElem?_concat_length]

/-- The pulse list is the repetition, over and over (R104). -/
theorem toPulses_getElem? {r x : Nat} (hr : r < c.nRepeat) (hx : x < frame.length * c.k + 1) :
    (toPulses c frame)[r * (frame.length * c.k + 1) + x]? = (repetition c frame)[x]? := by
  refine getElem?_flatten_of_length hx ?_ (by simp [hr])
  intro l hl
  rw [List.eq_of_mem_replicate hl, repetition_length hwf]

/-- The pulse of a bit in the list (R101, R104). -/
theorem toPulses_getElem?_symbol {r i m : Nat} {b : Bit} (hr : r < c.nRepeat) (hm : m < c.k)
    (hb : frame[i]? = some b) :
    (toPulses c frame)[r * (frame.length * c.k + 1) + i * c.k + m]? = (memRead c .symRom b)[m]? := by
  have hrep := repetition_getElem?_symbol hwf frame hm hb
  have hmem : m < (memRead c .symRom b).length := by rw [(CfgFacts.of_wf hwf).sym_length]; exact hm
  have hlt : i * c.k + m < (repetition c frame).length :=
    (List.getElem?_eq_some_iff.1 (hrep.trans (List.getElem?_eq_getElem hmem))).1
  rw [repetition_length hwf] at hlt
  rw [Nat.add_assoc, toPulses_getElem? hwf frame hr hlt, hrep]

/-- The gap pulses in the list (R103, R104). -/
theorem toPulses_getElem?_gap {r : Nat} (hr : r < c.nRepeat) :
    (toPulses c frame)[r * (frame.length * c.k + 1) + frame.length * c.k]? = some (gapPulse c) := by
  rw [toPulses_getElem? hwf frame hr (Nat.lt_succ_self _), repetition_getElem?_gap hwf]

end WellFormed

/-- Settles O12: `toPulses_length`. -/
theorem pulseCount : Obligations.PulseCount := fun _ frame hwf => toPulses_length hwf frame

/-- Settles O14: the gap pulses by their index, of which the last is the last of the list. -/
theorem gapAfterEveryRepetition : Obligations.GapAfterEveryRepetition := by
  intro c frame hwf
  refine ⟨fun r hr => toPulses_getElem?_gap hwf frame hr, ?_⟩
  obtain ⟨n, hn⟩ := Nat.exists_eq_add_of_le' (CfgFacts.of_wf hwf).repeat_pos
  have hlast : (toPulses c frame).length - 1 = n * (frame.length * c.k + 1) + frame.length * c.k := by
    rw [toPulses_length hwf, hn, Nat.succ_mul]
    omega
  rw [List.getLast?_eq_getElem?, hlast, toPulses_getElem?_gap hwf frame (by omega)]
  rfl

/-- Settles O15: `toPulses_getElem?_symbol`. -/
theorem symbolsInFrameOrder : Obligations.SymbolsInFrameOrder :=
  fun _ frame hwf _ _ _ hr hm _ hb => toPulses_getElem?_symbol hwf frame hr hm hb

/-! ### Durations -/

@[simp] theorem totalDur_nil : totalDur [] = 0 := rfl

@[simp] theorem totalDur_cons (p : Pulse) (ps : List Pulse) : totalDur (p :: ps) = p.dur + totalDur ps := by
  simp [totalDur]

@[simp] theorem totalDur_append (ps qs : List Pulse) : totalDur (ps ++ qs) = totalDur ps + totalDur qs := by
  simp [totalDur]

/-- The symbols of a frame last as long as its zero bits and its one bits together (R106). -/
theorem totalDur_symbols (c : Cfg) (frame : BitString) :
    totalDur (symbols c frame) = frame.count false * symDur c false + frame.count true * symDur c true := by
  induction frame with
  | nil => simp [symbols]
  | cons b frame ih =>
    have hcons : symbols c (b :: frame) = memRead c .symRom b ++ symbols c frame := List.flatMap_cons
    rw [hcons, totalDur_append, ih]
    cases b <;> simp [symDur, Nat.succ_mul] <;> omega

/-- `n` times a list lasts `n` times as long. -/
theorem totalDur_flatten_replicate (n : Nat) (ps : List Pulse) :
    totalDur (List.replicate n ps).flatten = n * totalDur ps := by
  induction n with
  | zero => simp
  | succ n ih => rw [List.replicate_succ, List.flatten_cons, totalDur_append, ih, Nat.succ_mul, Nat.add_comm]

/-- Settles O13: a repetition lasts as long as its symbols and its gap. -/
theorem totalDuration : Obligations.TotalDuration := by
  intro c frame
  rw [toPulses, totalDur_flatten_replicate, repetition, totalDur_append, totalDur_symbols]
  simp [gapPulse]

/-! ### The waveform -/

@[simp] theorem startOf_zero (ps : List Pulse) : startOf ps 0 = 0 := rfl

@[simp] theorem startOf_cons_succ (p : Pulse) (ps : List Pulse) (i : Nat) :
    startOf (p :: ps) (i + 1) = p.dur + startOf ps i := by
  simp [startOf]

/-- Inside a pulse the waveform has its level (R109). -/
theorem wave_of_mem_pulse {ps : List Pulse} {i u : Nat} {p : Pulse} (hp : ps[i]? = some p)
    (hlo : startOf ps i ≤ u) (hhi : u < startOf ps i + p.dur) : wave ps u = some p.level := by
  induction ps generalizing i u with
  | nil => simp at hp
  | cons q ps ih =>
    cases i with
    | zero =>
      cases hp
      rw [startOf_zero, Nat.zero_add] at hhi
      rw [wave, if_pos hhi]
    | succ i =>
      rw [startOf_cons_succ] at hlo hhi
      rw [wave, if_neg (by omega)]
      exact ih hp (by omega) (by omega)

/-- The waveform ends with the list (R109). -/
theorem wave_eq_none_iff (ps : List Pulse) (u : Nat) : wave ps u = none ↔ totalDur ps ≤ u := by
  induction ps generalizing u with
  | nil => simp [wave]
  | cons p ps ih =>
    rw [wave, totalDur_cons]
    split
    case isTrue h =>
      simp only [reduceCtorEq, false_iff]
      omega
    case isFalse h =>
      rw [ih]
      omega

/-- Settles O16: the waveform inside a pulse, and its end. -/
theorem waveHoldsEachPulse : Obligations.WaveHoldsEachPulse :=
  fun ps => ⟨fun _ _ hp _ hlo hhi => wave_of_mem_pulse hp hlo hhi, wave_eq_none_iff ps⟩

/-! ### The position -/

section Position
variable {c : Cfg} {j : Job} {p q : Pos} (hwf : cfgWf c = true) (hj : j.Sound c)
include hwf hj

/-- The first position is in range (R19). -/
theorem firstPos_inRange : firstPos.InRange c j where
  rep_lt := by rw [hj.repeat_count]; exact (CfgFacts.of_wf hwf).repeat_pos
  bit_le := Nat.zero_le _
  sym_lt := (CfgFacts.of_wf hwf).k_pos
  gap_sym := fun _ => rfl

/-- `pulse_at` of a position in range is the pulse that `PIDX` numbers (R17, R20). -/
theorem pulseAt_eq_getElem? (hp : p.InRange c j) : pulseAt c j p = (toPulses c j.frame)[pulseIndex c j p]? := by
  have hrep : p.rep < c.nRepeat := hj.repeat_count ▸ hp.rep_lt
  rw [pulseAt, pulseIndex, pulsesPerRepetition, ← hj.frame_length]
  split
  case isTrue hbit =>
    have hb : j.frame[p.bit]? = some j.frame[p.bit] := List.getElem?_eq_getElem hbit
    rw [hb, toPulses_getElem?_symbol hwf j.frame hrep hp.sym_lt hb]
  case isFalse hbit =>
    have hgap : p.bit = j.flen := by have := hp.bit_le; have := hj.frame_length; omega
    rw [hp.gap_sym hgap, hgap, ← hj.frame_length, Nat.add_zero, toPulses_getElem?_gap hwf j.frame hrep]

/-- Every position in range names a pulse of at least one tick (R21). -/
theorem exists_pulseAt (hp : p.InRange c j) : ∃ pulse, pulseAt c j p = some pulse ∧ 1 ≤ pulse.dur := by
  have hfacts := CfgFacts.of_wf hwf
  unfold pulseAt
  split
  case isTrue hbit =>
    rw [← hj.frame_length] at hbit
    have hb : j.frame[p.bit]? = some j.frame[p.bit] := List.getElem?_eq_getElem hbit
    have hm : p.sym < (memRead c .symRom j.frame[p.bit]).length := by rw [hfacts.sym_length]; exact hp.sym_lt
    rw [hb]
    exact ⟨_, List.getElem?_eq_getElem hm, hfacts.sym_dur _ _ (List.getElem_mem hm)⟩
  case isFalse => exact ⟨_, rfl, hfacts.gap_pos⟩

/-- `PIDX` of a position in range is inside the list (R21). -/
theorem pulseIndex_lt (hp : p.InRange c j) : pulseIndex c j p < (toPulses c j.frame).length := by
  obtain ⟨pulse, hpulse, -⟩ := exists_pulseAt hwf hj hp
  rw [pulseAt_eq_getElem? hwf hj hp] at hpulse
  exact (List.getElem?_eq_some_iff.1 hpulse).1

omit hj in
/-- `next` keeps the position in range and adds one to `PIDX` (R19, R20). -/
theorem nextPos_some (hp : p.InRange c j) (h : nextPos c j p = some q) :
    q.InRange c j ∧ pulseIndex c j q = pulseIndex c j p + 1 := by
  have hk := (CfgFacts.of_wf hwf).k_pos
  obtain ⟨hrep, hbit, hsym, hgap⟩ := hp
  unfold nextPos at h
  split_ifs at h with hnext hlast hagain <;> cases h
  · exact ⟨⟨hrep, hbit, hnext.2, fun h => absurd h hnext.1.ne⟩, rfl⟩
  · have hend : p.sym + 1 = c.k := by omega
    refine ⟨⟨hrep, hlast, hk, fun _ => rfl⟩, ?_⟩
    simp only [pulseIndex, Nat.succ_mul]
    omega
  · have hend : p.bit = j.flen := by omega
    refine ⟨⟨hagain, Nat.zero_le _, hk, fun _ => rfl⟩, ?_⟩
    simp only [pulseIndex, pulsesPerRepetition, hgap hend, hend, Nat.succ_mul]
    omega

/-- `next` has no value exactly at the last pulse (R19, R21). -/
theorem nextPos_eq_none_iff (hp : p.InRange c j) :
    nextPos c j p = none ↔ pulseIndex c j p + 1 = (toPulses c j.frame).length := by
  cases h : nextPos c j p with
  | some q =>
    obtain ⟨hq, hidx⟩ := nextPos_some hwf hp h
    have := pulseIndex_lt hwf hj hq
    simp only [reduceCtorEq, false_iff]
    omega
  | none =>
    obtain ⟨hrep, hbit, -, hgap⟩ := hp
    unfold nextPos at h
    split_ifs at h with hnext hlast hagain
    have hend : p.bit = j.flen := by omega
    have hlastRep : p.rep + 1 = c.nRepeat := by have := hj.repeat_count; omega
    rw [toPulses_length hwf, hj.frame_length, ← hlastRep, pulseIndex, pulsesPerRepetition, hgap hend, hend]
    simp [Nat.succ_mul, Nat.add_assoc]

end Position

/-- Settles O17: the four facts about a position in range. -/
theorem positionWalksThePulseList : Obligations.PositionWalksThePulseList := fun _ _ _ hwf hj hp =>
  ⟨pulseAt_eq_getElem? hwf hj hp, pulseIndex_lt hwf hj hp, fun _ hq => nextPos_some hwf hp hq,
    nextPos_eq_none_iff hwf hj hp⟩

end Sys2Proof.Machine
end

section
/-! Proofs about the job as a trace of pin operations (spec/43_ook_modulator.md R116, R118, R124, R125). -/

namespace Sys2Proof.Machine

/-! ### The whole trace -/

/-- The operations of the pulses alone: `SetTx(l_i)`, `Wait(d_i)` for each pulse in list order (R118). -/
def pulseOps (ps : List Pulse) : List PinOp := ps.flatMap fun p => [.setTx p.level, .wait p.dur]

/-- The trace: two operations, those of the pulses, three operations (R118). -/
theorem trace_eq (c : Cfg) (ps : List Pulse) :
    trace c ps = .setPwr true :: .wait c.tSettle ::
      (pulseOps ps ++ [.setTx .low, .wait c.tTrail, .setPwr false]) := rfl

@[simp] theorem pulseOps_nil : pulseOps [] = [] := rfl

@[simp] theorem pulseOps_cons (p : Pulse) (ps : List Pulse) :
    pulseOps (p :: ps) = .setTx p.level :: .wait p.dur :: pulseOps ps := rfl

@[simp] theorem pulseOps_length (ps : List Pulse) : (pulseOps ps).length = 2 * ps.length := by
  simp [pulseOps, Nat.mul_comm]

/-- The two operations of pulse `i` (R118). -/
theorem pulseOps_getElem? {ps : List Pulse} {i : Nat} {p : Pulse} (hp : ps[i]? = some p) :
    (pulseOps ps)[2 * i]? = some (.setTx p.level) ∧ (pulseOps ps)[2 * i + 1]? = some (.wait p.dur) := by
  have hblocks : ∀ x ∈ ps.map (fun p => [PinOp.setTx p.level, .wait p.dur]), x.length = 2 := by simp
  have hblock : (ps.map fun p => [PinOp.setTx p.level, .wait p.dur])[i]? = some [.setTx p.level, .wait p.dur] := by
    simp [hp]
  rw [Nat.mul_comm 2 i]
  exact ⟨getElem?_flatten_of_length (m := 0) (by decide) hblocks hblock,
    getElem?_flatten_of_length (m := 1) (by decide) hblocks hblock⟩

/-- The number of drive operations in a list (R116). -/
def driveCount (ops : List PinOp) : Nat := (ops.filter PinOp.isDrive).length

@[simp] theorem driveCount_cons (o : PinOp) (ops : List PinOp) :
    driveCount (o :: ops) = driveCount ops + if o.isDrive then 1 else 0 := by
  cases h : o.isDrive <;> simp [driveCount, h]

@[simp] theorem driveCount_append (ops ops' : List PinOp) :
    driveCount (ops ++ ops') = driveCount ops + driveCount ops' := by
  simp [driveCount]

@[simp] theorem driveCount_nil : driveCount [] = 0 := rfl

/-- Each pulse has one drive operation (R118). -/
@[simp] theorem driveCount_pulseOps (ps : List Pulse) : driveCount (pulseOps ps) = ps.length := by
  induction ps with
  | nil => rfl
  | cons p ps ih => simp [ih, PinOp.isDrive]

/-- The trace of `P` pulses has `P + 3` drive operations (R118). -/
@[simp] theorem driveCount_trace (c : Cfg) (ps : List Pulse) : driveCount (trace c ps) = ps.length + 3 := by
  simp [trace_eq, PinOp.isDrive]

/-- The operations of the pulses last as long as the pulses (R116). -/
theorem sum_ticks_pulseOps (ps : List Pulse) : ((pulseOps ps).map PinOp.ticks).sum = totalDur ps := by
  induction ps with
  | nil => rfl
  | cons p ps ih => simp [ih, PinOp.ticks]

/-- The operations of a pulse stand behind the first two of the trace (R118). -/
theorem trace_getElem?_pulse (c : Cfg) {ps : List Pulse} {i : Nat} {p : Pulse} (hp : ps[i]? = some p) :
    (trace c ps)[2 * i + 2]? = some (.setTx p.level) ∧ (trace c ps)[2 * i + 3]? = some (.wait p.dur) := by
  have hi : i < ps.length := (List.getElem?_eq_some_iff.1 hp).1
  obtain ⟨hset, hwait⟩ := pulseOps_getElem? hp
  rw [trace_eq, List.getElem?_cons_succ, List.getElem?_cons_succ, List.getElem?_cons_succ, List.getElem?_cons_succ,
    List.getElem?_append_left (by rw [pulseOps_length]; omega),
    List.getElem?_append_left (by rw [pulseOps_length]; omega)]
  exact ⟨hset, hwait⟩

/-- The last three operations stand behind those of the pulses (R118). -/
theorem trace_getElem?_tail (c : Cfg) (ps : List Pulse) (m : Nat) :
    (trace c ps)[2 * ps.length + 2 + m]? = [PinOp.setTx .low, .wait c.tTrail, .setPwr false][m]? := by
  rw [trace_eq, show 2 * ps.length + 2 + m = 2 * ps.length + m + 1 + 1 by omega, List.getElem?_cons_succ,
    List.getElem?_cons_succ, List.getElem?_append_right (by rw [pulseOps_length]; omega), pulseOps_length,
    Nat.add_sub_cancel_left]

/-- Settles O18: the operations of the trace by their index, and its three sums. -/
theorem traceShape : Obligations.TraceShape := by
  intro c ps
  refine ⟨rfl, rfl, fun i p hp => trace_getElem?_pulse c hp, trace_getElem?_tail c ps 0, trace_getElem?_tail c ps 1,
    trace_getElem?_tail c ps 2, ?_, driveCount_trace c ps, ?_⟩
  · simp [trace_eq]
  · simp [trace_eq, sum_ticks_pulseOps, PinOp.ticks, Nat.add_assoc]

/-! ### Playing it -/

section Play
variable {answers : Nat → Bool}

/-- A wait is performed, and the rest is played (R125). -/
theorem playTrace_cons_wait {o : PinOp} (ops : List PinOp) (j : Nat) (ho : o.isDrive = false) :
    playTrace answers (o :: ops) j = (.op o :: (playTrace answers ops j).1, (playTrace answers ops j).2) := by
  simp [playTrace, ho]

/-- A driven drive operation is performed, and the rest is played with the next number (R125). -/
theorem playTrace_cons_driven {o : PinOp} (ops : List PinOp) (j : Nat) (ho : o.isDrive = true)
    (h : answers j = false) :
    playTrace answers (o :: ops) j =
      (.op o :: (playTrace answers ops (j + 1)).1, (playTrace answers ops (j + 1)).2) := by
  simp [playTrace, ho, h]

/-- A faulted drive operation is marked and ends the play (R124). -/
theorem playTrace_cons_faulted {o : PinOp} (ops : List PinOp) (j : Nat) (ho : o.isDrive = true)
    (h : answers j = true) : playTrace answers (o :: ops) j = ([.fault j], .hardwareFault) := by
  simp [playTrace, ho, h]

/-- Operations that are all driven are all performed (R125). -/
theorem playTrace_driven {ops : List PinOp} {j : Nat} (h : ∀ i, i < driveCount ops → answers (j + i) = false) :
    playTrace answers ops j = (ops.map .op, .ok) := by
  induction ops generalizing j with
  | nil => rfl
  | cons o ops ih =>
    cases ho : o.isDrive with
    | false =>
      rw [playTrace_cons_wait ops j ho, ih (by simpa [ho] using h)]
      rfl
    | true =>
      have hrest : ∀ i, i < driveCount ops → answers (j + 1 + i) = false := fun i hi => by
        rw [Nat.add_assoc, Nat.add_comm 1]
        exact h (i + 1) (by simp [ho, hi])
      rw [playTrace_cons_driven ops j ho (h 0 (by simp [ho])), ih hrest]
      rfl

/-- The first faulted drive operation ends the play, after the operations strictly before it (R124, R125). -/
theorem playTrace_faulted {ops : List PinOp} {j k : Nat} (hk : k < driveCount ops) (hfault : answers (j + k) = true)
    (hdriven : ∀ i, i < k → answers (j + i) = false) :
    ∃ before o after, ops = before ++ o :: after ∧ o.isDrive = true ∧ driveCount before = k ∧
      playTrace answers ops j = (before.map .op ++ [.fault (j + k)], .hardwareFault) := by
  induction ops generalizing j k with
  | nil => cases hk
  | cons o ops ih =>
    cases ho : o.isDrive with
    | false =>
      obtain ⟨before, o', after, hops, ho', hcount, hplay⟩ := ih (by simpa [ho] using hk) hfault hdriven
      exact ⟨o :: before, o', after, by rw [hops]; rfl, ho', by simp [ho, hcount],
        by rw [playTrace_cons_wait ops j ho, hplay]; rfl⟩
    | true =>
      cases k with
      | zero => exact ⟨[], o, ops, rfl, ho, rfl, playTrace_cons_faulted ops j ho hfault⟩
      | succ k =>
        have hshift : ∀ i, j + 1 + i = j + (i + 1) := by omega
        obtain ⟨before, o', after, hops, ho', hcount, hplay⟩ :=
          ih (j := j + 1) (k := k) (by simpa [ho] using hk) (by rwa [hshift])
            fun i hi => by rw [hshift]; exact hdriven _ (Nat.succ_lt_succ hi)
        exact ⟨o :: before, o', after, by rw [hops]; rfl, ho', by simp [ho, hcount],
          by rw [playTrace_cons_driven ops j ho (hdriven 0 k.succ_pos), hplay, hshift]; rfl⟩

end Play

/-- Settles O19: the whole trace is driven. -/
theorem drivenJobPlaysWholeTrace : Obligations.DrivenJobPlaysWholeTrace := by
  intro c ps answers h
  refine playTrace_driven fun i hi => ?_
  rw [driveCount_trace] at hi
  rw [Nat.zero_add]
  exact h i hi

/-- Settles O20: the first faulted drive operation of the whole trace. -/
theorem firstFaultCutsTheTrace : Obligations.FirstFaultCutsTheTrace := by
  intro c ps answers j hj hfault hdriven
  have hplay := playTrace_faulted (answers := answers) (ops := trace c ps) (j := 0) (k := j)
  simp only [Nat.zero_add, driveCount_trace] at hplay
  exact hplay hj hfault hdriven

end Sys2Proof.Machine
end

section
/-! Rules of the engine's step and of the machine's step, one for each case (spec/43_ook_modulator.md R126 to R132,
spec/70_reset_and_hazards.md R185), and the obligations that state one of them. -/

namespace Sys2Proof.Machine

/-! ### The engine's step, by driver state -/

section Engine
variable {c : Cfg} {r : Regs} {req : Option BitString} {b : Bool} {n : Nat} {last : Except Fault Regs}

/-- The last tick of an interval (R128). -/
theorem countdown_of_one (h : r.cnt = some 1) : countdown r last = last := by simp [countdown, h]

/-- A tick of an interval that is not over (R128). -/
theorem countdown_of_add_two (h : r.cnt = some (n + 2)) : countdown r last = .ok (r.countDown (n + 1)) := by
  simp [countdown, h]

/-- CNT is read, so it has to hold a value (R8, R18). -/
theorem countdown_of_none (h : r.cnt = none) : countdown r last = .error (.noValue .cnt) := by simp [countdown, h]

/-- Only the last tick of an interval looks at what the last tick does (R128). -/
theorem countdown_of_ne_one (last' : Except Fault Regs) (h : r.cnt ≠ some 1) :
    countdown r last = countdown r last' := by
  unfold countdown
  split
  case h_3 h1 => exact absurd h1 h
  all_goals rfl

/-- A count of at least 1 lets the interval go on, if its last tick does (R128). -/
theorem exists_countdown_ok (hc : r.cnt = some n) (hn : 1 ≤ n) (hlast : ∃ r', last = .ok r') :
    ∃ r', countdown r last = .ok r' := by
  obtain _ | _ | n := n
  · omega
  · obtain ⟨r', hr'⟩ := hlast
    exact ⟨r', (countdown_of_one hc).trans hr'⟩
  · exact ⟨_, countdown_of_add_two hc⟩

theorem engineTick_idle (h : r.st = .idle) : engineTick c r req b = .ok (idleTick c r req b) := by
  simp [engineTick, h]

theorem engineTick_poweringUp (h : r.st = .poweringUp) :
    engineTick c r req b = countdown r (settleEnds c r b) := by
  simp [engineTick, h]

theorem engineTick_transmitting (h : r.st = .transmitting) :
    engineTick c r req b = countdown r (pulseEnds c r b) := by
  simp [engineTick, h]

theorem engineTick_poweringDown (h : r.st = .poweringDown) :
    engineTick c r req b = countdown r (.ok (drive b completed)) := by
  simp [engineTick, h]

/-- Outside Idle a tick counts, and no request is looked at (R128, R142). -/
theorem engineTick_busy (c : Cfg) (b : Bool) (h : r.st ≠ .idle) :
    ∃ last, ∀ req, engineTick c r req b = countdown r last := by
  cases hst : r.st with
  | idle => exact absurd hst h
  | poweringUp => exact ⟨_, fun _ => engineTick_poweringUp hst⟩
  | transmitting => exact ⟨_, fun _ => engineTick_transmitting hst⟩
  | poweringDown => exact ⟨_, fun _ => engineTick_poweringDown hst⟩

/-- Counting down in any busy state (R128). -/
theorem engineTick_counting (h : r.st ≠ .idle) (hc : r.cnt = some (n + 2)) :
    engineTick c r req b = .ok (r.countDown (n + 1)) := by
  obtain ⟨last, hlast⟩ := engineTick_busy c b h
  rw [hlast, countdown_of_add_two hc]

/-- A pulse starts at a position that names one (R129, R130). -/
theorem startPulse_of_pulseAt {j : Job} {p : Pos} {pulse : Pulse} (h : pulseAt c j p = some pulse) :
    startPulse c r j p b = .ok (drive b (r.play p pulse)) := by
  simp [startPulse, h]

/-- The end of the settle delay (R129). -/
theorem settleEnds_of_pulseAt {j : Job} {pulse : Pulse} (hj : r.job = some j)
    (h : pulseAt c j firstPos = some pulse) : settleEnds c r b = .ok (drive b (r.play firstPos pulse)) := by
  simp [settleEnds, hj, startPulse_of_pulseAt h]

/-- The end of a pulse that has a next one (R130). -/
theorem pulseEnds_of_next {j : Job} {p q : Pos} {pulse : Pulse} (hj : r.job = some j) (hp : r.pos = some p)
    (hq : nextPos c j p = some q) (h : pulseAt c j q = some pulse) :
    pulseEnds c r b = .ok (drive b (r.play q pulse)) := by
  simp [pulseEnds, hj, hp, hq, startPulse_of_pulseAt h]

/-- The end of the last pulse (R130). -/
theorem pulseEnds_of_last {j : Job} {p : Pos} (hj : r.job = some j) (hp : r.pos = some p)
    (hq : nextPos c j p = none) : pulseEnds c r b = .ok (drive b (r.powerDown c)) := by
  simp [pulseEnds, hj, hp, hq]

end Engine

/-- Outside Idle the last tick of an interval performs a drive operation, and no other tick does (R126, R128). -/
theorem performsDrive_busy {r : Regs} (req : Option BitString) (h : r.st ≠ .idle) :
    performsDrive r req = (r.cnt == some 1) := by
  cases hst : r.st with
  | idle => exact absurd hst h
  | poweringUp => simp [performsDrive, hst]
  | transmitting => simp [performsDrive, hst]
  | poweringDown => simp [performsDrive, hst]

/-- Settles O33: without a drive operation the tick is Idle without a request, or a count other than 1. -/
theorem pinFaultIgnoredWithoutDrive : Obligations.PinFaultIgnoredWithoutDrive := by
  intro c r req b b' h
  by_cases hst : r.st = .idle
  · have hreq : req = none := by simpa [performsDrive, hst] using h
    rw [engineTick_idle hst, engineTick_idle hst, hreq]
    rfl
  · have hcnt : r.cnt ≠ some 1 := by simpa [performsDrive_busy req hst] using h
    obtain ⟨last, hlast⟩ := engineTick_busy c b hst
    obtain ⟨last', hlast'⟩ := engineTick_busy c b' hst
    rw [hlast, hlast']
    exact countdown_of_ne_one last' hcnt

/-! ### The machine's step -/

section Step
variable {s : State} {r : Regs} {e : Fault}

/-- A reset tick under a well-formed CFG (R185). -/
theorem step_reset (hwf : cfgWf s.cfg = true) (hrst : s.now.rst = true) :
    step s = .next (s.endTick Regs.reset none) := by
  rw [step_eq, if_pos hrst, resetTick, underWf_of_wf _ hwf]

/-- A tick without reset (R126). -/
theorem step_run (hrst : s.now.rst = false) : step s = runTick s (tickRequest s) (tickAnswer s) := by
  rw [step_eq, if_neg (by simp [hrst])]

/-- A tick without reset whose engine step answers goes on with its registers (R126). -/
theorem step_engine (hwf : cfgWf s.cfg = true) (hrst : s.now.rst = false)
    (h : engineTick s.cfg s.regs (tickRequest s) s.now.pinFault = .ok r) :
    step s = .next (s.endTick r (tickAnswer s)) := by
  rw [step_run hrst, runTick_eq hwf h]

/-- A tick without reset whose engine step faults stops with its fault (R8). -/
theorem step_fault (hwf : cfgWf s.cfg = true) (hrst : s.now.rst = false)
    (h : engineTick s.cfg s.regs (tickRequest s) s.now.pinFault = .error e) : step s = .fault e := by
  simp [step_run hrst, runTick, underWf_of_wf _ hwf, h]

/-- No step writes CFG (R5). -/
theorem step_cfg {t : State} (h : step s = .next t) : t.cfg = s.cfg := by
  obtain ⟨-, ⟨-, rfl⟩ | ⟨-, r, -, rfl⟩⟩ := step_next h <;> rfl

end Step

/-- Settles O23: the reset record. -/
theorem resetRegisters : Obligations.ResetRegisters := rfl

/-- Settles O24: `step_reset`. -/
theorem resetTickHolds : Obligations.ResetTick :=
  fun _ hwf hrst => ⟨_, step_reset hwf hrst, rfl, rfl, rfl, rfl, rfl⟩

/-- Settles O53: every tick begins with the check of CFG. -/
theorem illFormedCfgIsRefused : Obligations.IllFormedCfgIsRefused := by
  intro s h
  refine ⟨?_, fun i => ?_⟩
  · rw [step_eq]
    split
    · exact underWf_of_not_wf _ h
    · exact underWf_of_not_wf _ h
  · rw [exec_eq]
    exact underWf_of_not_wf _ h

/-- Settles O42: the three ways the request port is read. -/
theorem stepRunsTheDecodedInstruction : Obligations.StepRunsTheDecodedInstruction := by
  intro s hrst
  refine ⟨fun hv i hi => ?_, fun hv e he => ?_, fun hv => ?_⟩
  · simp [step, fetch, hrst, hv, hi]
  · simp [step, fetch, hrst, hv, he]
  · simp [step, fetch, hrst, hv]

/-- Settles O29: every ROM space is read from CFG, which no step writes. -/
theorem romsAreNeverWritten : Obligations.RomsAreNeverWritten := by
  intro s t h
  have hcfg := step_cfg h
  exact ⟨hcfg, fun sp i => by rw [hcfg]⟩

/-- Settles O22: `T_TICK` is a field that neither a reset tick nor the engine's step reads, so each answers the same
registers under both records. -/
theorem realTickLengthIsUnread : Obligations.RealTickLengthIsUnread := by
  intro s t x h
  obtain ⟨hwf, ⟨hrst, rfl⟩ | ⟨hrst, r, hr, rfl⟩⟩ := step_next h
  · exact step_reset (s := { s with cfg := { s.cfg with tTick := x } }) hwf hrst
  · exact step_engine (s := { s with cfg := { s.cfg with tTick := x } }) hwf hrst hr

/-- Settles O34: `engineTick_counting`. -/
theorem countingDown : Obligations.CountingDown :=
  fun _ _ hwf hrst hst hcnt => step_engine hwf hrst (engineTick_counting hst hcnt)

/-- Settles O36: the settle delay ends with the first pulse. -/
theorem settleDelayEnds : Obligations.SettleDelayEnds := by
  intro s j pulse hwf hrst hst hcnt hjob hpulse
  refine step_engine hwf hrst ?_
  rw [engineTick_poweringUp hst, countdown_of_one hcnt, settleEnds_of_pulseAt hjob hpulse]
  rfl

/-- Settles O37: the two ways a pulse ends. -/
theorem pulseEndsHolds : Obligations.PulseEnds := by
  intro s j p hwf hrst hst hcnt hjob hpos
  refine ⟨fun q pulse hq hpulse => step_engine hwf hrst ?_, fun hq => step_engine hwf hrst ?_⟩
  · rw [engineTick_transmitting hst, countdown_of_one hcnt, pulseEnds_of_next hjob hpos hq hpulse, Regs.play, ← hst]
    rfl
  · rw [engineTick_transmitting hst, countdown_of_one hcnt, pulseEnds_of_last hjob hpos hq]
    rfl

/-- Settles O38: the trailing margin ends with `SetPwr(0)`. -/
theorem trailingMarginEnds : Obligations.TrailingMarginEnds := by
  intro s hwf hrst hst hcnt
  refine step_engine hwf hrst ?_
  rw [engineTick_poweringDown hst, countdown_of_one hcnt]
  rfl

/-- Settles O54: each clause is a read of a register without a value. -/
theorem valuelessReadsFault : Obligations.ValuelessReadsFault := by
  intro s hwf hrst
  refine ⟨fun hst hcnt => ?_, fun hst hcnt hjob => ?_, fun hst hcnt hjob => ?_, fun hst hcnt hjob hpos => ?_⟩ <;>
    refine step_fault hwf hrst ?_
  · obtain ⟨last, hlast⟩ := engineTick_busy s.cfg s.now.pinFault hst
    rw [hlast, countdown_of_none hcnt]
  · rw [engineTick_poweringUp hst, countdown_of_one hcnt]
    simp [settleEnds, hjob]
  · rw [engineTick_transmitting hst, countdown_of_one hcnt]
    simp [pulseEnds, hjob]
  · obtain ⟨j, hj⟩ := Option.ne_none_iff_exists'.1 hjob
    rw [engineTick_transmitting hst, countdown_of_one hcnt]
    simp [pulseEnds, hj, hpos]

/-- Settles O21: each port is its register. -/
theorem outputsShowTheRegisters : Obligations.OutputsShowTheRegisters := by
  intro s
  refine ⟨by simp [outputs, busy], rfl, ?_, rfl, fun code hcode => by simp [outputs, doneCodePort, hcode]⟩
  cases htx : s.regs.tx <;> simp [outputs, htx, levelBit]

end Sys2Proof.Machine
end

section
/-! Proofs about what a step can do to the registers: the moves of the driver, its reports and the invariant
(spec/10_state.md sections 2, 3, 5 and 9). -/

namespace Sys2Proof.Machine

/-! ### The moves of the engine -/

/-- The moves of the engine's step, with the answer to the drive operation taken into account (R127 to R132): each one
names what it needs of the registers, the request and `pin_fault`. -/
inductive Regs.Move (c : Cfg) (r : Regs) (req : Option BitString) (pinFault : Bool) : Regs → Prop
  /-- Idle without a request (R127). -/
  | rest (idle : r.st = .idle) (quiet : req = none) : Regs.Move c r req pinFault r.dropReport
  /-- An interval that is not over (R128). -/
  | count (n : Nat) (working : r.st ≠ .idle) (counter : r.cnt = some (n + 2)) :
      Regs.Move c r req pinFault (r.countDown (n + 1))
  /-- A drive operation that faults (R132). -/
  | fault (faulted : pinFault = true) (operation : r.st ≠ .idle ∨ ∃ frame, req = some frame) :
      Regs.Move c r req pinFault takeFault
  /-- `SetPwr(1)` driven (R127). -/
  | powerUp (frame : BitString) (driven : pinFault = false) (idle : r.st = .idle) (request : req = some frame) :
      Regs.Move c r req pinFault (r.powerUp c frame)
  /-- The `SetTx` of pulse 0 driven (R129). -/
  | firstPulse (j : Job) (pulse : Pulse) (driven : pinFault = false) (settling : r.st = .poweringUp)
      (job : r.job = some j) (current : pulseAt c j firstPos = some pulse) :
      Regs.Move c r req pinFault (r.play firstPos pulse)
  /-- The `SetTx` of the next pulse driven (R130). -/
  | nextPulse (j : Job) (p q : Pos) (pulse : Pulse) (driven : pinFault = false) (playing : r.st = .transmitting)
      (job : r.job = some j) (position : r.pos = some p) (following : nextPos c j p = some q)
      (current : pulseAt c j q = some pulse) : Regs.Move c r req pinFault (r.play q pulse)
  /-- The final `SetTx(LOW)` driven (R130). -/
  | powerDown (driven : pinFault = false) (playing : r.st = .transmitting) :
      Regs.Move c r req pinFault (r.powerDown c)
  /-- `SetPwr(0)` driven (R131). -/
  | complete (driven : pinFault = false) (trailing : r.st = .poweringDown) : Regs.Move c r req pinFault completed

/-- A drive operation is a fault, or is driven. -/
theorem Regs.Move.of_drive {c : Cfg} {r driven : Regs} {req : Option BitString} {b : Bool}
    (operation : r.st ≠ .idle ∨ ∃ frame, req = some frame) (h : b = false → Regs.Move c r req b driven) :
    Regs.Move c r req b (drive b driven) := by
  rcases drive_cases b driven with ⟨hb, hd⟩ | ⟨hb, hd⟩ <;> rw [hd]
  · exact .fault hb operation
  · exact h hb

/-- The engine's step makes one of its moves. -/
theorem Regs.Move.of_engineTick {c : Cfg} {r r' : Regs} {req : Option BitString} {b : Bool}
    (h : engineTick c r req b = .ok r') : Regs.Move c r req b r' := by
  rcases engineTick_ok h with ⟨hst, hreq, rfl⟩ | ⟨f, hst, hreq, rfl⟩ | ⟨n, hst, hcnt, rfl⟩ | ⟨hst, -, h⟩ |
    ⟨hst, -, h⟩ | ⟨hst, -, rfl⟩
  · exact .rest hst hreq
  · exact .of_drive (.inr ⟨f, hreq⟩) fun hb => .powerUp f hb hst hreq
  · exact .count n hst hcnt
  · obtain ⟨j, pulse, hj, hpulse, rfl⟩ := settleEnds_ok h
    exact .of_drive (.inl (by simp [hst])) fun hb => .firstPulse j pulse hb hst hj hpulse
  · obtain ⟨j, p, hj, hp, ⟨-, rfl⟩ | ⟨q, pulse, hq, hpulse, rfl⟩⟩ := pulseEnds_ok h
    · exact .of_drive (.inl (by simp [hst])) fun hb => .powerDown hb hst
    · exact .of_drive (.inl (by simp [hst])) fun hb => .nextPulse j p q pulse hb hst hj hp hq hpulse
  · exact .of_drive (.inl (by simp [hst])) fun hb => .complete hb hst

/-- A step without reset makes a move of the engine, whose request is the one accepted on this tick. -/
theorem step_move {s t : State} (hrst : s.now.rst = false) (h : step s = .next t) :
    ∃ r, Regs.Move s.cfg s.regs (tickRequest s) s.now.pinFault r ∧ t = s.endTick r (tickAnswer s) := by
  obtain ⟨-, ⟨hrst', -⟩ | ⟨-, r, hr, rfl⟩⟩ := step_next h
  · simp [hrst] at hrst'
  · exact ⟨r, .of_engineTick hr, rfl⟩

/-- A request is accepted only in Idle, and with a frame that its word resolves to (R141, R143). -/
theorem tickRequest_some {s : State} {frame : BitString} (h : tickRequest s = some frame) :
    s.regs.st = .idle ∧ resolve s.cfg (opField s.now.cmd) (devField s.now.cmd) = .ok frame := by
  unfold tickRequest at h
  split_ifs at h
  exact accepted_some h

/-- BUSY, in terms of the driver state (R22). -/
@[simp] theorem busy_iff {r : Regs} : busy r = true ↔ r.st ≠ .idle := by
  simp [busy]

/-- Settles O31: the edge of each move. -/
theorem driverEdges : Obligations.DriverEdges := by
  intro s t hrst h
  obtain ⟨r, hmove, rfl⟩ := step_move hrst h
  cases hmove with
  | rest => exact .inl rfl
  | count => exact .inl rfl
  | fault hb =>
    by_cases hst : s.regs.st = .idle
    · exact .inl hst.symm
    · exact .inr (.inr ⟨hb, hst, rfl⟩)
  | powerUp f hb hst => exact .inr (.inl ⟨hb, .inl ⟨hst, rfl⟩⟩)
  | firstPulse j pulse hb hst => exact .inr (.inl ⟨hb, .inr (.inl ⟨hst, rfl⟩)⟩)
  | nextPulse j p q pulse hb hst => exact .inl hst.symm
  | powerDown hb hst => exact .inr (.inl ⟨hb, .inr (.inr (.inl ⟨hst, rfl⟩))⟩)
  | complete hb hst => exact .inr (.inl ⟨hb, .inr (.inr (.inr ⟨hst, rfl⟩))⟩)

/-- Settles O30: the moves between busy states leave the job registers, the others begin or end in Idle. -/
theorem jobIsImmutable : Obligations.JobIsImmutable := by
  intro s t h hs ht
  rw [busy_iff] at hs ht
  obtain ⟨-, ⟨-, rfl⟩ | ⟨hrst, -⟩⟩ := step_next h
  · exact absurd rfl ht
  · obtain ⟨r, hmove, rfl⟩ := step_move hrst h
    cases hmove with
    | rest hst => exact absurd hst hs
    | powerUp f hb hst => exact absurd hst hs
    | fault => exact absurd rfl ht
    | complete => exact absurd rfl ht
    | count => rfl
    | firstPulse => rfl
    | nextPulse => rfl
    | powerDown => rfl

/-- Settles O32: a fault and completion report, the other moves drop the report and keep a busy state busy. -/
theorem reportEndsAJob : Obligations.ReportEndsAJob := by
  intro s t hrst h
  simp only [busy_iff]
  obtain ⟨r, hmove, rfl⟩ := step_move hrst h
  cases hmove with
  | rest hst hreq => exact .inr ⟨rfl, rfl, fun hs => absurd hst hs, fun f hf => by simp [hreq] at hf⟩
  | count n hst => exact .inr ⟨rfl, rfl, fun _ => hst, fun f hf => absurd (tickRequest_some hf).1 hst⟩
  | fault hb hop => exact .inl ⟨rfl, rfl, by rw [hb]; rfl, hop.imp_right fun hreq => ⟨hreq, hb⟩⟩
  | complete hb hst => exact .inl ⟨rfl, rfl, by rw [hb]; rfl, .inl (by simp [hst])⟩
  | powerUp f hb => exact .inr ⟨rfl, rfl, fun _ => by simp, fun _ _ => hb⟩
  | firstPulse j pulse hb => exact .inr ⟨rfl, rfl, fun _ => by simp, fun _ _ => hb⟩
  | nextPulse j p q pulse hb => exact .inr ⟨rfl, rfl, fun _ => by simp, fun _ _ => hb⟩
  | powerDown hb => exact .inr ⟨rfl, rfl, fun _ => by simp, fun _ _ => hb⟩

/-! ### The invariant: each move of the engine keeps it -/

section Invariant
variable {c : Cfg} {r : Regs}

/-- In Idle the invariant fixes every register but the report (R36 a). -/
theorem Regs.Inv.eq_idleRegs (h : Regs.Inv c r) (hst : r.st = .idle) : ∃ report, r = idleRegs report := by
  cases h with
  | idle report => exact ⟨report, rfl⟩
  | poweringUp => cases hst
  | transmitting => cases hst
  | poweringDown => cases hst

theorem Regs.Inv.dropReport (h : Regs.Inv c r) (hst : r.st = .idle) : Regs.Inv c r.dropReport := by
  obtain ⟨report, rfl⟩ := h.eq_idleRegs hst
  exact .idle none (.inl rfl)

theorem Regs.Inv.countDown {n : Nat} (h : Regs.Inv c r) (hcnt : r.cnt = some (n + 2)) :
    Regs.Inv c (r.countDown (n + 1)) := by
  cases h with
  | idle => cases hcnt
  | poweringUp j m hj hm =>
    cases hcnt
    exact .poweringUp j (n + 1) hj (by omega)
  | transmitting j p pulse m hj hp hpulse hm =>
    cases hcnt
    exact .transmitting j p pulse (n + 1) hj hp hpulse (by omega)
  | poweringDown j m hj hm =>
    cases hcnt
    exact .poweringDown j (n + 1) hj (by omega)

theorem Regs.Inv.powerUp {frame : BitString} (hwf : cfgWf c = true) (h : Regs.Inv c r) (hst : r.st = .idle)
    (hframe : frame.length = 12 ∨ frame.length = 18) : Regs.Inv c (r.powerUp c frame) := by
  obtain ⟨report, rfl⟩ := h.eq_idleRegs hst
  exact .poweringUp ⟨frame, frame.length, c.nRepeat⟩ c.tSettle ⟨hframe, rfl, rfl⟩
    ⟨(CfgFacts.of_wf hwf).settle_pos, le_rfl⟩

theorem Regs.Inv.firstPulse {j : Job} {pulse : Pulse} (hwf : cfgWf c = true) (h : Regs.Inv c r)
    (hst : r.st = .poweringUp) (hj : r.job = some j) (hpulse : pulseAt c j firstPos = some pulse) :
    Regs.Inv c (r.play firstPos pulse) := by
  cases h with
  | poweringUp j' m hsound hm =>
    cases hj
    have hrange := firstPos_inRange hwf hsound
    obtain ⟨pulse', hpulse', hdur⟩ := exists_pulseAt hwf hsound hrange
    cases hpulse.symm.trans hpulse'
    exact .transmitting j firstPos pulse pulse.dur hsound hrange hpulse ⟨hdur, le_rfl⟩
  | idle => cases hst
  | transmitting => cases hst
  | poweringDown => cases hst

theorem Regs.Inv.nextPulse {j : Job} {p q : Pos} {pulse : Pulse} (hwf : cfgWf c = true) (h : Regs.Inv c r)
    (hst : r.st = .transmitting) (hj : r.job = some j) (hp : r.pos = some p) (hq : nextPos c j p = some q)
    (hpulse : pulseAt c j q = some pulse) : Regs.Inv c (r.play q pulse) := by
  cases h with
  | transmitting j' p' pulse₀ m hsound hrange hpulse₀ hm =>
    cases hj
    cases hp
    obtain ⟨hrange', -⟩ := nextPos_some hwf hrange hq
    obtain ⟨pulse', hpulse', hdur⟩ := exists_pulseAt hwf hsound hrange'
    cases hpulse.symm.trans hpulse'
    exact .transmitting j q pulse pulse.dur hsound hrange' hpulse ⟨hdur, le_rfl⟩
  | idle => cases hst
  | poweringUp => cases hst
  | poweringDown => cases hst

theorem Regs.Inv.powerDown (hwf : cfgWf c = true) (h : Regs.Inv c r) (hst : r.st = .transmitting) :
    Regs.Inv c (r.powerDown c) := by
  cases h with
  | transmitting j p pulse m hsound => exact .poweringDown j c.tTrail hsound ⟨(CfgFacts.of_wf hwf).trail_pos, le_rfl⟩
  | idle => cases hst
  | poweringUp => cases hst
  | poweringDown => cases hst

end Invariant

/-- Settles O26: reset meets the invariant, and every move of the engine keeps it. -/
theorem stepKeepsInvariant : Obligations.StepKeepsInvariant := by
  intro s t hinv h
  obtain ⟨hwf, ⟨-, rfl⟩ | ⟨hrst, -⟩⟩ := step_next h
  · exact .idle none (.inl rfl)
  · obtain ⟨r, hmove, rfl⟩ := step_move hrst h
    cases hmove with
    | rest hst => exact hinv.dropReport hst
    | count n hst hcnt => exact hinv.countDown hcnt
    | fault => exact .idle (some .hardwareFault) (.inr (.inr rfl))
    | powerUp f hb hst hreq => exact hinv.powerUp hwf hst (resolve_length (tickRequest_some hreq).2)
    | firstPulse j pulse hb hst hj hpulse => exact hinv.firstPulse hwf hst hj hpulse
    | nextPulse j p q pulse hb hst hj hp hq hpulse => exact hinv.nextPulse hwf hst hj hp hq hpulse
    | powerDown hb hst => exact hinv.powerDown hwf hst
    | complete => exact .idle (some .ok) (.inr (.inl rfl))

/-- Under the invariant every register that the engine's step reads holds a value, and every position names a pulse
(R14, R17, R18, R21). -/
theorem Regs.Inv.exists_engineTick {c : Cfg} {r : Regs} (hwf : cfgWf c = true) (h : Regs.Inv c r)
    (req : Option BitString) (b : Bool) : ∃ r', engineTick c r req b = .ok r' := by
  cases h with
  | idle => exact ⟨_, engineTick_idle rfl⟩
  | poweringUp j n hsound hn =>
    obtain ⟨pulse, hpulse, -⟩ := exists_pulseAt hwf hsound (firstPos_inRange hwf hsound)
    exact exists_countdown_ok rfl hn.1 ⟨_, settleEnds_of_pulseAt rfl hpulse⟩
  | transmitting j p pulse n hsound hrange hpulse hn =>
    refine exists_countdown_ok rfl hn.1 ?_
    cases hq : nextPos c j p with
    | none => exact ⟨_, pulseEnds_of_last rfl rfl hq⟩
    | some q =>
      obtain ⟨pulse', hpulse', -⟩ := exists_pulseAt hwf hsound (nextPos_some hwf hrange hq).1
      exact ⟨_, pulseEnds_of_next rfl rfl hq hpulse'⟩
  | poweringDown j n hsound hn => exact exists_countdown_ok rfl hn.1 ⟨_, rfl⟩

/-- Settles O27: a reset tick goes on, and so does the engine's step under the invariant. -/
theorem machineNeverStops : Obligations.MachineNeverStops := by
  intro s hinv hwf
  by_cases hrst : s.now.rst = true
  · exact ⟨_, step_reset hwf hrst⟩
  · obtain ⟨r, hr⟩ := hinv.exists_engineTick hwf (tickRequest s) s.now.pinFault
    exact ⟨_, step_engine hwf (by simpa using hrst) hr⟩

/-- Settles O25: the reset registers are those of Idle, and the reset record is well formed. -/
theorem resetMeetsInvariant : Obligations.ResetMeetsInvariant :=
  ⟨.idle none (.inl rfl), platformCfg_wf⟩

/-- Settles O28: PWR and TX in each case of the invariant. -/
theorem neverKeyedUnpowered : Obligations.NeverKeyedUnpowered := by
  rintro ⟨r, c, ins, n, a⟩ (h : Regs.Inv c r)
  cases h with
  | idle => exact ⟨by simp, nofun⟩
  | poweringUp => exact ⟨by simp, nofun⟩
  | transmitting => exact ⟨by simp, fun _ => ⟨rfl, rfl⟩⟩
  | poweringDown => exact ⟨by simp, nofun⟩

end Sys2Proof.Machine
end

section
/-! Proofs about requests, their answers and the five commands (spec/44_command_dispatch.md R140 to R149,
spec/60_exceptions.md R161, R162). -/

namespace Sys2Proof.Machine

/-! ### The answer to a request -/

section Answer
variable {c : Cfg} {r : Regs} {op : BitVec 3} {dev : BitVec 4} {e : ResultCode} {frame : BitString}

/-- A word that does not resolve is answered its error, and is not accepted (R141). -/
theorem answer_of_error (h : resolve c op dev = .error e) :
    answerOf c r op dev = e ∧ accepted c r op dev = none := by
  simp [answerOf, accepted, h]

/-- A word that resolves outside Idle is answered Busy, and is not accepted (R141). -/
theorem answer_of_busy (h : resolve c op dev = .ok frame) (hst : r.st ≠ .idle) :
    answerOf c r op dev = .busy ∧ accepted c r op dev = none := by
  simp [answerOf, accepted, h, hst]

/-- A word that resolves in Idle is answered OK, and is accepted with its frame (R141, R143). -/
theorem answer_of_idle (h : resolve c op dev = .ok frame) (hst : r.st = .idle) :
    answerOf c r op dev = .ok ∧ accepted c r op dev = some frame := by
  simp [answerOf, accepted, h, hst]

/-- A request is accepted and answered OK, or it is not accepted and answered one of the three errors of a request
(R141). -/
theorem answer_cases (c : Cfg) (r : Regs) (op : BitVec 3) (dev : BitVec 4) :
    (answerOf c r op dev = .ok ∧ ∃ frame, accepted c r op dev = some frame) ∨
      ((answerOf c r op dev = .notFound ∨ answerOf c r op dev = .invalidLength ∨ answerOf c r op dev = .busy) ∧
        accepted c r op dev = none) := by
  cases h : resolve c op dev with
  | error e =>
    obtain ⟨ha, hn⟩ := answer_of_error (r := r) h
    rcases resolve_error h with rfl | rfl
    · exact .inr ⟨.inl ha, hn⟩
    · exact .inr ⟨.inr (.inl ha), hn⟩
  | ok frame =>
    by_cases hst : r.st = .idle
    · obtain ⟨ha, hs⟩ := answer_of_idle h hst
      exact .inl ⟨ha, frame, hs⟩
    · obtain ⟨ha, hn⟩ := answer_of_busy h hst
      exact .inr ⟨.inr (.inr ha), hn⟩

/-- Outside Idle nothing is accepted (R141). -/
theorem accepted_of_busy (c : Cfg) (op : BitVec 3) (dev : BitVec 4) (hst : r.st ≠ .idle) :
    accepted c r op dev = none := by
  cases h : accepted c r op dev with
  | none => rfl
  | some frame => exact absurd (accepted_some h).1 hst

end Answer

section Tick
variable {s : State} (hrst : s.now.rst = false) (hreq : s.now.reqValid = true)
include hrst hreq

/-- What a presented word is answered on the port and in the record (R141). -/
theorem request_ports :
    reqCodePort s = resultBits (answerOf s.cfg s.regs (opField s.now.cmd) (devField s.now.cmd)) ∧
      tickAnswer s = some (answerOf s.cfg s.regs (opField s.now.cmd) (devField s.now.cmd)) ∧
      tickRequest s = accepted s.cfg s.regs (opField s.now.cmd) (devField s.now.cmd) := by
  simp [reqCodePort, tickAnswer, tickRequest, hrst, hreq]

end Tick

/-- The recorded answer is all that `a` does in a tick (log 6). -/
theorem runTick_eq_withAnswer (s : State) (req : Option BitString) (a a' : Option ResultCode) :
    runTick s req a = withAnswer a (runTick s req a') := by
  unfold runTick State.underWf
  split
  · split <;> rfl
  · rfl

/-- A request that is not accepted is the quiet tick but for the recorded answer (R142, R162). -/
theorem runTick_rejected (s : State) (a : Option ResultCode) : runTick s none a = withAnswer a (quietTick s) :=
  runTick_eq_withAnswer s none a none

/-- A rejected request on the port: the answer shown, and the quiet tick (R141, R162). -/
theorem step_rejected {s : State} {e : ResultCode} (hrst : s.now.rst = false) (hreq : s.now.reqValid = true)
    (h : answerOf s.cfg s.regs (opField s.now.cmd) (devField s.now.cmd) = e ∧
      accepted s.cfg s.regs (opField s.now.cmd) (devField s.now.cmd) = none) :
    reqCodePort s = resultBits e ∧ step s = withAnswer (some e) (quietTick s) := by
  obtain ⟨hport, hanswer, hrequest⟩ := request_ports hrst hreq
  obtain ⟨ha, hn⟩ := h
  exact ⟨by rw [hport, ha], by rw [step_run hrst, hrequest, hanswer, ha, hn, runTick_rejected]⟩

/-- Settles O43: each answer by what the word resolves to. -/
theorem requestAnswers : Obligations.RequestAnswers := by
  intro s hrst hreq op dev
  refine ⟨fun hout => step_rejected hrst hreq (answer_of_error (resolve_out_of_range hout)), fun o i ho hi => ?_⟩
  have hres : resolve s.cfg op dev = _ := ho ▸ resolve_selector o hi
  refine ⟨fun hlen => ?_, fun hlen => ?_⟩
  · rw [encodeFrame_of_wrong_length (by tauto)] at hres
    exact step_rejected hrst hreq (answer_of_error hres)
  · rw [encodeFrame_of_lengths hlen] at hres
    refine ⟨fun hst => step_rejected hrst hreq (answer_of_busy hres hst), fun hst => ?_⟩
    obtain ⟨hport, -, hrequest⟩ := request_ports hrst hreq
    obtain ⟨ha, hs⟩ := answer_of_idle hres hst
    exact ⟨by rw [hport, ha]; rfl, by rw [hrequest, hs]⟩

/-- Settles O44: a busy driver accepts nothing. -/
theorem busyLeavesTheJobAlone : Obligations.BusyLeavesTheJobAlone := by
  intro i s h
  rw [exec_eq, requestTick, accepted_of_busy _ _ _ (busy_iff.1 h), runTick_rejected]

/-- `req_code` is the number of OK or of an error of a request (R161). -/
theorem reqCodePort_le {s : State} (hrst : s.now.rst = false) : (reqCodePort s).toNat ≤ 3 := by
  by_cases hreq : s.now.reqValid = true
  · rw [(request_ports hrst hreq).1]
    rcases answer_cases s.cfg s.regs (opField s.now.cmd) (devField s.now.cmd) with ⟨ha, -⟩ | ⟨ha | ha | ha, -⟩ <;>
      rw [ha] <;> decide
  · simp [reqCodePort, hrst, hreq, resultBits]

/-- Under the invariant a report is OK or HardwareFault (R23). -/
theorem Regs.Inv.report_legal {c : Cfg} {r : Regs} (h : Regs.Inv c r) (hv : r.doneV = true) :
    r.doneC = some .ok ∨ r.doneC = some .hardwareFault := by
  cases h with
  | idle report hlegal =>
    rcases hlegal with rfl | h
    · cases hv
    · exact h
  | poweringUp => cases hv
  | transmitting => cases hv
  | poweringDown => cases hv

/-- Settles O45: the table of numbers, the codes of a request and those of a report. -/
theorem resultCodeNumbers : Obligations.ResultCodeNumbers := by
  refine ⟨rfl, rfl, rfl, rfl, rfl, fun s hrst => reqCodePort_le hrst, fun s hinv hv => ?_⟩
  have hcode := (outputsShowTheRegisters s).2.2.2.2
  rcases Regs.Inv.report_legal hinv hv with h | h
  · exact .inl (hcode _ h)
  · exact .inr (hcode _ h)

/-! ### The step in Idle -/

/-- The request of the tick, if it is accepted, is answered OK (R141). -/
theorem tickAnswer_of_tickRequest {s : State} {frame : BitString} (h : tickRequest s = some frame) :
    tickAnswer s = some .ok := by
  obtain ⟨hst, hres⟩ := tickRequest_some h
  unfold tickRequest at h
  split_ifs at h with hrst hreq
  rw [(request_ports (by simpa using hrst) hreq).2.1, (answer_of_idle hres hst).1]

/-- A tick in Idle without reset (R127). -/
theorem step_idle {s : State} (hwf : cfgWf s.cfg = true) (hrst : s.now.rst = false) (hst : s.regs.st = .idle) :
    step s = .next (s.endTick (idleTick s.cfg s.regs (tickRequest s) s.now.pinFault) (tickAnswer s)) :=
  step_engine hwf hrst (engineTick_idle hst)

/-- Settles O35: Idle rests, or performs `SetPwr(1)`. -/
theorem idleStep : Obligations.IdleStep := by
  intro s hwf hrst hst
  rw [step_idle hwf hrst hst]
  refine ⟨fun hreq => ?_, fun frame hreq hb => ?_, fun frame hreq hb => ?_⟩
  · rw [hreq]
    rfl
  · rw [hreq, hb, tickAnswer_of_tickRequest hreq]
    rfl
  · rw [hreq, hb, tickAnswer_of_tickRequest hreq]
    rfl

/-! ### The five commands -/

/-- Under the source's entries a command in Idle whose operands are found and have their lengths starts its job when
`SetPwr(1)` is driven (R80, R127, R141, R143). -/
theorem exec_starts {s : State} (instr : Instr) {i : Fin 10} {code : BitString} (hwf : cfgWf s.cfg = true)
    (hsrc : sourceEntries s.cfg = true) (hst : s.regs.st = .idle) (hi : instr.dev.toNat = i.val)
    (hdev : (s.cfg.devCode.get i).length = 4) (hb : s.now.pinFault = false)
    (hcode : memRead s.cfg .cmdRom instr.op = code) (hlen : code.length = clen instr.op) :
    exec instr s = .next (s.endTick
      (startedRegs s (bits [0, 1, 0, 1] ++ s.cfg.devCode.get i ++ code) (8 + clen instr.op)) (some .ok)) := by
  obtain ⟨hpfx, -⟩ := sourceEntries_iff.1 hsrc
  have hres : resolve s.cfg (selector instr.op) instr.dev = .ok (sourcePrefix ++ s.cfg.devCode.get i ++ code) := by
    rw [resolve_selector _ hi, hpfx, hcode]
    exact encodeFrame_of_lengths ⟨rfl, hdev, hlen⟩
  have hflen : (sourcePrefix ++ s.cfg.devCode.get i ++ code).length = 8 + clen instr.op := by
    rw [List.length_append, List.length_append, hdev, hlen]
    rfl
  obtain ⟨ha, hs⟩ := answer_of_idle hres hst
  rw [exec_eq, requestTick, ha, hs, ← hflen]
  refine runTick_eq hwf ?_
  rw [engineTick_idle hst, hb]
  rfl

/-- Settles O46: `exec_starts`, with the source's code. -/
theorem lightStartsItsJob : Obligations.LightStartsItsJob := by
  intro s dev i hwf hsrc hst hi hdev hb
  obtain ⟨-, -, -, hcode, -⟩ := sourceEntries_iff.1 hsrc
  exact exec_starts (.light dev) hwf hsrc hst hi hdev hb hcode rfl

/-- Settles O47: `exec_starts`, with the source's code. -/
theorem powerStartsItsJob : Obligations.PowerStartsItsJob := by
  intro s dev i hwf hsrc hst hi hdev hb
  obtain ⟨-, -, -, -, hcode⟩ := sourceEntries_iff.1 hsrc
  exact exec_starts (.power dev) hwf hsrc hst hi hdev hb hcode rfl

/-- Settles O48: `exec_starts`, with the table's code of 4 bits. -/
theorem plusStartsItsJob : Obligations.PlusStartsItsJob :=
  fun _ dev _ hwf hsrc hst hi hdev hlen hb => exec_starts (.plus dev) hwf hsrc hst hi hdev hb rfl hlen

/-- Settles O49: `exec_starts`, with the table's code of 4 bits. -/
theorem minusStartsItsJob : Obligations.MinusStartsItsJob :=
  fun _ dev _ hwf hsrc hst hi hdev hlen hb => exec_starts (.minus dev) hwf hsrc hst hi hdev hb rfl hlen

/-- Settles O50: `exec_starts`, with the table's code of 4 bits. -/
theorem novyStartsItsJob : Obligations.NovyStartsItsJob :=
  fun _ dev _ hwf hsrc hst hi hdev hlen hb => exec_starts (.novy dev) hwf hsrc hst hi hdev hb rfl hlen

/-- All that a command can answer as a next state: the engine's step with its request (R141, R143). -/
theorem exec_next {i : Instr} {s t : State} (h : exec i s = .next t) :
    ∃ r, engineTick s.cfg s.regs (accepted s.cfg s.regs (selector i.op) i.dev) s.now.pinFault = .ok r ∧
      t = s.endTick r (some (answerOf s.cfg s.regs (selector i.op) i.dev)) := by
  rw [exec_eq] at h
  exact (runTick_next h).2

/-- Settles O51: the end of the tick moves the model's own fields, and in Idle a request that is not accepted drops the
report alone, one that is accepted and driven powers up. -/
theorem commandFrames : Obligations.CommandFrames := by
  intro i s t h
  obtain ⟨r, hr, rfl⟩ := exec_next h
  simp only [endTick_cfg, endTick_inputs, endTick_tick, endTick_answer, endTick_regs]
  refine ⟨trivial, fun _ _ => trivial, trivial, trivial, trivial, fun hst ha => ?_, fun hst ha hb => ?_⟩ <;>
    rw [engineTick_idle hst] at hr
  · rcases answer_cases s.cfg s.regs (selector i.op) i.dev with ⟨hok, -⟩ | ⟨-, hnone⟩
    · exact absurd (congrArg some hok) ha
    · rw [hnone] at hr
      cases hr
      exact ⟨rfl, rfl, rfl, rfl, rfl, rfl⟩
  · rcases answer_cases s.cfg s.regs (selector i.op) i.dev with ⟨-, frame, hs⟩ | ⟨herr, -⟩
    · rw [hs, hb] at hr
      cases hr
      rfl
    · rw [Option.some.inj ha] at herr
      simp at herr

/-- The step in Idle does not look at the report (R127). -/
theorem engineTick_idleRegs (c : Cfg) (req : Option BitString) (b : Bool) (report report' : Option ResultCode) :
    engineTick c (idleRegs report) req b = engineTick c (idleRegs report') req b := by
  cases req <;> rfl

/-- Settles O52: under the invariant two Idle states differ in their report at most, at which neither the acceptance of
a request nor the step looks. -/
theorem commandsKeepNoMemory : Obligations.CommandsKeepNoMemory := by
  intro i s u t v hs hu hsst hust hcfg hb ht hv
  obtain ⟨report, hsr⟩ := Regs.Inv.eq_idleRegs hs hsst
  obtain ⟨report', hur⟩ := Regs.Inv.eq_idleRegs hu hust
  obtain ⟨r, hr, rfl⟩ := exec_next ht
  obtain ⟨r', hr', rfl⟩ := exec_next hv
  have haccept : accepted s.cfg (idleRegs report) (selector i.op) i.dev =
      accepted s.cfg (idleRegs report') (selector i.op) i.dev := rfl
  rw [hsr, haccept, engineTick_idleRegs s.cfg _ _ report report', hcfg, hb, ← hur, hr'] at hr
  exact (Except.ok.inj hr).symm

end Sys2Proof.Machine
end

section
/-! Proofs about a whole job, from its request to its report: the block follows the timeline of
spec/43_ook_modulator.md R133. The timeline is cut into the intervals between drive operations: interval 0 is the settle
delay, interval `i + 1` is pulse `i`, interval `P + 1` is the trailing margin, and drive operation `j` begins interval
`j`. -/

namespace Sys2Proof.Machine

/-! ### Runs -/

/-- A run is made longer by a step at its end. -/
theorem runTicks_succ {n : Nat} {s t : State} (h : runTicks n s = .next t) : runTicks (n + 1) s = step t := by
  induction n generalizing s with
  | zero =>
    cases h
    simp only [runTicks]
    cases step t <;> rfl
  | succ n ih =>
    rw [runTicks] at h ⊢
    cases hs : step s with
    | next u =>
      simp only [hs] at h
      exact ih h
    | fault e => simp [hs] at h
    | refused e => simp [hs] at h

/-- What every run leaves: CFG, and the inputs still to come (R5, log 1). -/
theorem runTicks_frame {n : Nat} {s t : State} (h : runTicks n s = .next t) :
    t.cfg = s.cfg ∧ ∀ k, t.inputAt k = s.inputAt (n + k) := by
  induction n generalizing s with
  | zero =>
    cases h
    exact ⟨rfl, fun k => by rw [Nat.zero_add]⟩
  | succ n ih =>
    rw [runTicks] at h
    cases hs : step s with
    | next u =>
      simp only [hs] at h
      obtain ⟨hcfg, hinputs⟩ := ih h
      obtain ⟨r, a, rfl⟩ : ∃ r a, u = s.endTick r a := by
        obtain ⟨-, ⟨-, hu⟩ | ⟨-, r, -, hu⟩⟩ := step_next hs
        · exact ⟨_, _, hu⟩
        · exact ⟨_, _, hu⟩
      exact ⟨hcfg, fun k => by rw [hinputs, endTick_inputAt, Nat.add_right_comm]⟩
    | fault e => simp [hs] at h
    | refused e => simp [hs] at h

/-! ### The offsets of the drive operations -/

/-- The end of a pulse is the start of the next (R109). -/
theorem startOf_succ {ps : List Pulse} {i : Nat} {p : Pulse} (hp : ps[i]? = some p) :
    startOf ps (i + 1) = startOf ps i + p.dur := by
  simp [startOf, List.take_add_one, hp]

/-- The end of the last pulse is the total duration (R109). -/
@[simp] theorem startOf_length (ps : List Pulse) : startOf ps ps.length = totalDur ps := by
  simp [startOf]

/-- No pulse starts after the end of the list (R109). -/
theorem startOf_le (ps : List Pulse) (i : Nat) : startOf ps i ≤ totalDur ps := by
  calc startOf ps i ≤ startOf ps i + totalDur (ps.drop i) := Nat.le_add_right _ _
    _ = totalDur ps := by rw [startOf, ← totalDur_append, List.take_append_drop]

section Offsets
variable (c : Cfg) (frame : BitString)

/-- `SetPwr(1)` is on the tick of the request (R133). -/
@[simp] theorem driveOffset_zero : driveOffset c frame 0 = 0 := rfl

/-- The `SetTx` of pulse `i`, and the final one, are on the last tick of the interval before (R133). -/
theorem driveOffset_pulse {i : Nat} (hi : i ≤ (toPulses c frame).length) :
    driveOffset c frame (i + 1) = c.tSettle + startOf (toPulses c frame) i := by
  simp [driveOffset, hi]

/-- `SetPwr(0)` is on the last busy tick (R133). -/
theorem driveOffset_last {j : Nat} (hj : (toPulses c frame).length + 2 ≤ j) :
    driveOffset c frame j = jobTicks c frame := by
  unfold driveOffset
  rw [if_neg (by omega), if_neg (by omega)]

/-- Every drive operation is on a tick at or before the last busy one (R133). -/
theorem driveOffset_le (j : Nat) : driveOffset c frame j ≤ jobTicks c frame := by
  have := startOf_le (toPulses c frame) (j - 1)
  unfold driveOffset jobTicks
  dsimp only
  split_ifs <;> omega

/-- The drive operations come in the order of their numbers (R133). -/
theorem driveOffset_mono : Monotone (driveOffset c frame) := by
  refine monotone_nat_of_le_succ fun j => ?_
  obtain _ | i := j
  · exact Nat.zero_le _
  · rcases Nat.lt_or_ge i (toPulses c frame).length with hi | hi
    · rw [driveOffset_pulse c frame hi.le, driveOffset_pulse c frame hi,
        startOf_succ (List.getElem?_eq_getElem hi)]
      omega
    · rw [driveOffset_last c frame (j := i + 1 + 1) (by omega)]
      exact driveOffset_le c frame _

/-- An operation whose tick is earlier has a smaller number (R133). -/
theorem lt_of_driveOffset_lt {i j : Nat} (h : driveOffset c frame i < driveOffset c frame j) : i < j :=
  (driveOffset_mono c frame).reflect_lt h

end Offsets

/-! ### The intervals of a job -/

/-- The job registers that acceptance loads (R143). -/
def jobOf (c : Cfg) (frame : BitString) : Job := ⟨frame, frame.length, c.nRepeat⟩

/-- The job registers of a frame that a word resolves to are sound (R13). -/
theorem jobOf_sound {c : Cfg} {op : BitVec 3} {dev : BitVec 4} {frame : BitString}
    (h : resolve c op dev = .ok frame) : (jobOf c frame).Sound c :=
  ⟨resolve_length h, rfl, rfl⟩

/-- `Regs.Interval c frame j len r`: the registers `r` are those of interval `j`, which lasts `len` ticks, at any
count. -/
inductive Regs.Interval (c : Cfg) (frame : BitString) : Nat → Nat → Regs → Prop
  /-- The settle delay (R127). -/
  | settle (pos : Option Pos) (cnt : Option Nat) :
      Regs.Interval c frame 0 c.tSettle
        { st := .poweringUp, job := some (jobOf c frame), pos := pos, cnt := cnt, tx := .low, pwr := true,
          doneV := false, doneC := none }
  /-- A pulse (R129, R130). -/
  | pulse (p : Pos) (pulse : Pulse) (cnt : Option Nat) (range : p.InRange c (jobOf c frame))
      (current : pulseAt c (jobOf c frame) p = some pulse) :
      Regs.Interval c frame (pulseIndex c (jobOf c frame) p + 1) pulse.dur
        { st := .transmitting, job := some (jobOf c frame), pos := some p, cnt := cnt, tx := pulse.level, pwr := true,
          doneV := false, doneC := none }
  /-- The trailing margin (R130). -/
  | trail (cnt : Option Nat) :
      Regs.Interval c frame ((toPulses c frame).length + 1) c.tTrail
        { st := .poweringDown, job := some (jobOf c frame), pos := none, cnt := cnt, tx := .low, pwr := true,
          doneV := false, doneC := none }

section Interval
variable {c : Cfg} {frame : BitString} {j len n d : Nat} {r : Regs}

/-- In every interval the driver is busy and reports nothing (R133). -/
theorem Regs.Interval.busy (h : Regs.Interval c frame j len r) : r.st ≠ .idle ∧ r.doneV = false := by
  cases h <;> exact ⟨nofun, rfl⟩

/-- Counting down stays in the interval (R128). -/
theorem Regs.Interval.countDown (h : Regs.Interval c frame j len r) (n : Nat) :
    Regs.Interval c frame j len (r.countDown n) := by
  cases h with
  | settle pos => exact .settle pos _
  | pulse p pulse _ hp hpulse => exact .pulse p pulse _ hp hpulse
  | trail => exact .trail _

variable (hwf : cfgWf c = true) (hj : (jobOf c frame).Sound c)
include hwf hj

/-- A pulse of the position is a pulse of the list (R20, R21). -/
theorem toPulses_of_pulseAt {p : Pos} {pulse : Pulse} (hp : p.InRange c (jobOf c frame))
    (hpulse : pulseAt c (jobOf c frame) p = some pulse) :
    (toPulses c frame)[pulseIndex c (jobOf c frame) p]? = some pulse :=
  (pulseAt_eq_getElem? hwf hj hp).symm.trans hpulse

/-- An interval lasts from its drive operation to the next one (R133). -/
theorem Regs.Interval.driveOffset_succ (h : Regs.Interval c frame j len r) :
    driveOffset c frame (j + 1) = driveOffset c frame j + len := by
  cases h with
  | settle => rw [driveOffset_pulse c frame (Nat.zero_le _), startOf_zero, driveOffset_zero, Nat.add_comm]
  | pulse p pulse _ hp hpulse =>
    have hlt := pulseIndex_lt hwf hj hp
    rw [driveOffset_pulse c frame hlt.le, driveOffset_pulse c frame hlt,
      startOf_succ (toPulses_of_pulseAt hwf hj hp hpulse), Nat.add_assoc]
  | trail =>
    rw [driveOffset_last c frame le_rfl, driveOffset_pulse c frame le_rfl, startOf_length, jobTicks]

/-- The registers of an interval show the row of the timeline on each of its ticks (R133). -/
theorem Regs.Interval.view (h : Regs.Interval c frame j len r) (hd : 1 ≤ d) (hlen : d ≤ len) :
    r.view = timelineRow c frame (driveOffset c frame j + d) := by
  cases h with
  | settle =>
    rw [timelineRow, if_pos (by simpa using hlen)]
    rfl
  | pulse p pulse _ hp hpulse =>
    have hmem := toPulses_of_pulseAt hwf hj hp hpulse
    have hend := startOf_le (toPulses c frame) (pulseIndex c (jobOf c frame) p + 1)
    rw [startOf_succ hmem] at hend
    rw [driveOffset_pulse c frame (pulseIndex_lt hwf hj hp).le, timelineRow, if_neg (by omega), if_pos (by omega),
      wave_of_mem_pulse hmem (by omega) (by omega)]
    rfl
  | trail =>
    rw [driveOffset_pulse c frame le_rfl, startOf_length, timelineRow, if_neg (by omega), if_neg (by omega),
      if_pos (by rw [jobTicks]; omega)]
    rfl

/-- The last tick of an interval performs the next drive operation; driven, the next interval begins at its full count,
or the job is complete (R129 to R131). -/
theorem Regs.Interval.ends (h : Regs.Interval c frame j len r) (hcnt : r.cnt = some 1) :
    ∃ r', (∀ req b, engineTick c r req b = .ok (drive b r')) ∧
      ((driveOffset c frame (j + 1) = jobTicks c frame ∧ r' = completed) ∨
        ∃ len', Regs.Interval c frame (j + 1) len' r' ∧ r'.cnt = some len' ∧ 1 ≤ len') := by
  cases h with
  | settle pos =>
    have hp := firstPos_inRange hwf hj
    obtain ⟨pulse, hpulse, hdur⟩ := exists_pulseAt hwf hj hp
    have hfirst : pulseIndex c (jobOf c frame) firstPos + 1 = 0 + 1 := by simp [pulseIndex, firstPos]
    refine ⟨_, fun req b => ((engineTick_poweringUp rfl).trans (countdown_of_one hcnt)).trans
      (settleEnds_of_pulseAt rfl hpulse), .inr ⟨pulse.dur, ?_, rfl, hdur⟩⟩
    rw [← hfirst]
    exact .pulse firstPos pulse _ hp hpulse
  | pulse p pulse _ hp hpulse =>
    cases hq : nextPos c (jobOf c frame) p with
    | some q =>
      obtain ⟨hq', hidx⟩ := nextPos_some hwf hp hq
      obtain ⟨pulse', hpulse', hdur⟩ := exists_pulseAt hwf hj hq'
      refine ⟨_, fun req b => ((engineTick_transmitting rfl).trans (countdown_of_one hcnt)).trans
        (pulseEnds_of_next rfl rfl hq hpulse'), .inr ⟨pulse'.dur, ?_, rfl, hdur⟩⟩
      rw [← hidx]
      exact .pulse q pulse' _ hq' hpulse'
    | none =>
      have hlast := (nextPos_eq_none_iff hwf hj hp).1 hq
      refine ⟨_, fun req b => ((engineTick_transmitting rfl).trans (countdown_of_one hcnt)).trans
        (pulseEnds_of_last rfl rfl hq), .inr ⟨c.tTrail, ?_, rfl, (CfgFacts.of_wf hwf).trail_pos⟩⟩
      rw [hlast]
      exact .trail _
  | trail =>
    exact ⟨completed, fun req b => (engineTick_poweringDown rfl).trans (countdown_of_one hcnt),
      .inl ⟨driveOffset_last c frame le_rfl, rfl⟩⟩

end Interval

/-! ### The states of a driven job -/

/-- `State.OnTimeline frame n s`: the state `s` stands at offset `n` of a job whose drive operations so far were
driven. -/
inductive State.OnTimeline (frame : BitString) : Nat → State → Prop
  /-- Offset 0 is the tick of the request. -/
  | request (s : State) (accepts : s.Accepts frame) : State.OnTimeline frame 0 s
  /-- Tick `d` of interval `j`, with `k` ticks left, this one included. -/
  | within (s : State) (j len d k : Nat) (interval : Regs.Interval s.cfg frame j len s.regs)
      (count : s.regs.cnt = some k) (ticks : d + k = len + 1) (started : 1 ≤ d) (unfinished : 1 ≤ k) :
      State.OnTimeline frame (driveOffset s.cfg frame j + d) s
  /-- The tick of the report. -/
  | report (s : State) (complete : s.regs = completed) : State.OnTimeline frame (jobTicks s.cfg frame + 1) s

section Timeline
variable {s : State} {frame : BitString} {n : Nat}

/-- The first tick of an interval. -/
theorem State.OnTimeline.first {j len : Nat} (h : Regs.Interval s.cfg frame j len s.regs)
    (hcnt : s.regs.cnt = some len) (hlen : 1 ≤ len) : State.OnTimeline frame (driveOffset s.cfg frame j + 1) s :=
  .within s j len 1 len h hcnt (Nat.add_comm 1 len) le_rfl hlen

/-- An accepted request performs `SetPwr(1)` (R127). -/
theorem State.Accepts.engineTick (h : s.Accepts frame) (b : Bool) :
    engineTick s.cfg s.regs (tickRequest s) b = .ok (drive b (s.regs.powerUp s.cfg frame)) := by
  rw [(request_ports h.no_reset h.request).2.2, (answer_of_idle h.resolved h.idle).2, engineTick_idle h.idle]
  rfl

/-- On the busy ticks of the timeline the driver is busy and reports nothing (R133). -/
theorem State.OnTimeline.busy (h : s.OnTimeline frame n) (hn : 1 ≤ n) (hjob : n ≤ jobTicks s.cfg frame) :
    Machine.busy s.regs = true ∧ s.regs.doneV = false := by
  cases h with
  | request => omega
  | within _ j len d k hint => exact ⟨busy_iff.2 hint.busy.1, hint.busy.2⟩
  | report => omega

variable (hwf : cfgWf s.cfg = true) (hj : (jobOf s.cfg frame).Sound s.cfg)
include hwf hj

/-- After the last busy tick the job is complete (R131). -/
theorem State.OnTimeline.complete (h : s.OnTimeline frame n) (hn : n = jobTicks s.cfg frame + 1) :
    s.regs = completed := by
  cases h with
  | request => omega
  | within _ j len d k hint =>
    have hsucc := hint.driveOffset_succ hwf hj
    have hle := driveOffset_le s.cfg frame (j + 1)
    omega
  | report _ h => exact h

/-- Every state of the timeline shows its row (R133). -/
theorem State.OnTimeline.view (h : s.OnTimeline frame n) (hn : 1 ≤ n) :
    s.regs.view = timelineRow s.cfg frame n := by
  cases h with
  | request => omega
  | within _ j len d k hint _ _ hd => exact hint.view hwf hj hd (by omega)
  | report _ h =>
    rw [h, timelineRow, if_neg (by rw [jobTicks]; omega), if_neg (by rw [jobTicks]; omega), if_neg (by omega)]
    rfl

/-- One tick along the timeline: it performs a drive operation exactly if one has this offset, and unless that faults
the next state stands at the next offset (R126 to R131, R133). -/
theorem State.OnTimeline.step (h : s.OnTimeline frame n) (hjob : n ≤ jobTicks s.cfg frame)
    (hrst : s.now.rst = false) :
    ∃ r, (s.endTick r (tickAnswer s)).OnTimeline frame (n + 1) ∧
      (((∀ j, driveOffset s.cfg frame j ≠ n) ∧ step s = .next (s.endTick r (tickAnswer s))) ∨
        ((∃ j, driveOffset s.cfg frame j = n) ∧
          step s = .next (s.endTick (drive s.now.pinFault r) (tickAnswer s)))) := by
  cases h with
  | request _ haccepts =>
    refine ⟨_, ?_, .inr ⟨⟨0, rfl⟩, step_engine hwf hrst (haccepts.engineTick _)⟩⟩
    exact .first (s := s.endTick (s.regs.powerUp s.cfg frame) _) (.settle s.regs.pos (some s.cfg.tSettle)) rfl
      (CfgFacts.of_wf hwf).settle_pos
  | within _ j len d k hint hcnt hticks hd hk =>
    have hsucc := hint.driveOffset_succ hwf hj
    obtain _ | _ | k := k
    · omega
    · obtain ⟨r, hr, hnext⟩ := hint.ends hwf hj hcnt
      have hoffset : driveOffset s.cfg frame (j + 1) = driveOffset s.cfg frame j + d := by omega
      refine ⟨r, ?_, .inr ⟨⟨j + 1, hoffset⟩, step_engine hwf hrst (hr _ _)⟩⟩
      rw [← hoffset]
      rcases hnext with ⟨hlast, rfl⟩ | ⟨len', hint', hcnt', hlen'⟩
      · rw [hlast]
        exact .report (s.endTick completed _) rfl
      · exact .first (s := s.endTick r _) hint' hcnt' hlen'
    · refine ⟨s.regs.countDown (k + 1), ?_, .inl ⟨fun i hi => ?_, step_engine hwf hrst ?_⟩⟩
      · exact .within (s.endTick _ _) j len (d + 1) (k + 1) (hint.countDown (k + 1)) rfl (by omega) (by omega)
          (by omega)
      · have hlo := lt_of_driveOffset_lt s.cfg frame (i := j) (j := i) (by omega)
        have hhi := lt_of_driveOffset_lt s.cfg frame (i := i) (j := j + 1) (by omega)
        omega
      · exact engineTick_counting hint.busy.1 hcnt
  | report => omega

end Timeline

/-! ### The run of a job -/

section Run
variable {s : State} {frame : BitString} (hwf : cfgWf s.cfg = true) (haccepts : s.Accepts frame)
include hwf haccepts

/-- As long as its drive operations are driven, a job stands on its timeline tick for tick (R133). -/
theorem driven_run {n : Nat} (hrst : s.NoResetFor n) (hn : n ≤ jobTicks s.cfg frame + 1)
    (hdriven : ∀ j, driveOffset s.cfg frame j < n → s.driveAnswer frame j = false) :
    ∃ t, runTicks n s = .next t ∧ t.OnTimeline frame n := by
  induction n with
  | zero => exact ⟨s, rfl, .request s haccepts⟩
  | succ n ih =>
    obtain ⟨t, hrun, ht⟩ := ih (fun k hk => hrst k (by omega)) (by omega) fun j hlt => hdriven j (by omega)
    obtain ⟨hcfg, hinputs⟩ := runTicks_frame hrun
    have hnow : t.now = s.inputAt n := hinputs 0
    rw [runTicks_succ hrun]
    obtain ⟨r, hnext, ⟨-, hstep⟩ | ⟨⟨j, hoffset⟩, hstep⟩⟩ := ht.step (by rwa [hcfg])
      (by rw [hcfg]; exact jobOf_sound haccepts.resolved) (by rw [hcfg]; omega)
      (by rw [hnow]; exact hrst n n.lt_succ_self)
    · exact ⟨_, hstep, hnext⟩
    · rw [hcfg] at hoffset
      have hanswer : t.now.pinFault = false := by
        rw [hnow, ← hdriven j (by omega), State.driveAnswer, hoffset]
      rw [hanswer] at hstep
      exact ⟨_, hstep, hnext⟩

/-- The first faulted drive operation ends the run of a job on the tick after it (R132, R133). -/
theorem faulted_run {j : Nat} (hrst : s.NoResetFor (driveOffset s.cfg frame j + 1))
    (hfault : s.driveAnswer frame j = true) (hdriven : ∀ i, i < j → s.driveAnswer frame i = false) :
    ∃ t, runTicks (driveOffset s.cfg frame j + 1) s = .next t ∧ t.regs = takeFault := by
  have hle := driveOffset_le s.cfg frame j
  obtain ⟨t, hrun, ht⟩ := driven_run hwf haccepts (n := driveOffset s.cfg frame j) (fun k hk => hrst k (by omega))
    (by omega) fun i hi => hdriven i (lt_of_driveOffset_lt s.cfg frame hi)
  obtain ⟨hcfg, hinputs⟩ := runTicks_frame hrun
  have hnow : t.now = s.inputAt (driveOffset s.cfg frame j) := hinputs 0
  rw [runTicks_succ hrun]
  obtain ⟨r, -, ⟨hno, -⟩ | ⟨-, hstep⟩⟩ := ht.step (by rwa [hcfg])
    (by rw [hcfg]; exact jobOf_sound haccepts.resolved) (by rwa [hcfg])
    (by rw [hnow]; exact hrst _ (Nat.lt_succ_self _))
  · exact absurd (by rw [hcfg]) (hno j)
  · have hanswer : t.now.pinFault = true := by rw [hnow]; exact hfault
    rw [hanswer] at hstep
    exact ⟨_, hstep, rfl⟩

/-- Before the first faulted drive operation, and up to the end of a job without one, the driver is busy and reports
nothing (R133). -/
theorem busy_run {k : Nat} (hrst : s.NoResetFor k) (hk : 1 ≤ k) (hjob : k ≤ jobTicks s.cfg frame)
    (hdriven : ∀ j, driveOffset s.cfg frame j < k → s.driveAnswer frame j = false) :
    ∃ v, runTicks k s = .next v ∧ busy v.regs = true ∧ v.regs.doneV = false := by
  obtain ⟨v, hrun, hv⟩ := driven_run hwf haccepts hrst (by omega) hdriven
  obtain ⟨hcfg, -⟩ := runTicks_frame hrun
  exact ⟨v, hrun, hv.busy hk (by rwa [hcfg])⟩

end Run

/-- A job that is driven has all its `P + 3` drive operations driven, and there is no other (R133). -/
theorem driveAnswer_of_driven {s : State} {frame : BitString}
    (h : ∀ j, j < (toPulses s.cfg frame).length + 3 → s.driveAnswer frame j = false) (j : Nat) :
    s.driveAnswer frame j = false := by
  by_cases hj : j < (toPulses s.cfg frame).length + 3
  · exact h j hj
  · rw [← h ((toPulses s.cfg frame).length + 2) (by omega), State.driveAnswer, State.driveAnswer,
      driveOffset_last s.cfg frame le_rfl, driveOffset_last s.cfg frame (by omega)]

/-- Settles O39: the states of a driven run, and what each of them shows. -/
theorem jobPlaysItsTimeline : Obligations.JobPlaysItsTimeline := by
  intro s frame n hwf haccepts hrst hn hjob hdriven
  obtain ⟨t, hrun, ht⟩ := driven_run hwf haccepts hrst hjob hdriven
  obtain ⟨hcfg, -⟩ := runTicks_frame hrun
  have hsound : (jobOf s.cfg frame).Sound s.cfg := jobOf_sound haccepts.resolved
  rw [← hcfg] at hwf hsound ⊢
  exact ⟨t, hrun, ht.view hwf hsound hn, ht.complete hwf hsound⟩

/-- Settles O40: `faulted_run`. -/
theorem faultEndsTheJob : Obligations.FaultEndsTheJob :=
  fun _ _ _ hwf haccepts _ hrst hfault hdriven => faulted_run hwf haccepts hrst hfault hdriven

/-- Settles O41: the report comes after the first faulted drive operation, or at the end of the timeline if there is
none, and `transmit` makes the same distinction. -/
theorem dispatchIsOneTransaction : Obligations.DispatchIsOneTransaction := by
  intro s frame hwf haccepts hrst
  by_cases hfault : ∃ j, j < (toPulses s.cfg frame).length + 3 ∧ s.driveAnswer frame j = true
  · obtain ⟨j, ⟨hj, hfaulted⟩, hfirst⟩ := Nat.findX hfault
    have hdriven : ∀ i, i < j → s.driveAnswer frame i = false := fun i hi => by
      simpa [show i < (toPulses s.cfg frame).length + 3 by omega] using hfirst i hi
    have hle := driveOffset_le s.cfg frame j
    obtain ⟨t, hrun, ht⟩ := faulted_run hwf haccepts (fun k hk => hrst k (by omega)) hfaulted hdriven
    obtain ⟨before, o, after, -, -, -, htransmit⟩ := firstFaultCutsTheTrace s.cfg _ _ j hj hfaulted hdriven
    refine ⟨_, t, by omega, by omega, hrun, by rw [ht]; rfl, by rw [ht, htransmit]; rfl, fun k hk hlt => ?_⟩
    exact busy_run hwf haccepts (fun i hi => hrst i (by omega)) hk (by omega) fun i hi =>
      hdriven i (lt_of_driveOffset_lt s.cfg frame (by omega))
  · have hdriven : ∀ j, j < (toPulses s.cfg frame).length + 3 → s.driveAnswer frame j = false := by
      simpa using hfault
    have hall := driveAnswer_of_driven hdriven
    obtain ⟨t, hrun, -, hend⟩ := jobPlaysItsTimeline s frame _ hwf haccepts hrst (by omega) le_rfl fun j _ => hall j
    have ht := hend rfl
    refine ⟨_, t, by omega, le_rfl, hrun, by rw [ht], ?_, fun k hk hlt => ?_⟩
    · rw [ht, drivenJobPlaysWholeTrace s.cfg _ _ hdriven]
    · exact busy_run hwf haccepts (fun i hi => hrst i (by omega)) hk (by omega) fun j _ => hall j

end Sys2Proof.Machine
end
